-- ==== Sys2Proof/Word.lean ====
section
/-! DEFINITION. The word types: every value of the hardware is an unsigned integer of a stated width
(`00_scope.md` R8). -/

namespace Sys2Proof

/-- A byte: an input byte, a Frame Buffer position, `rem`, `cklo` (`00_scope.md` R5, `10_state.md` R10). -/
abbrev Byte := BitVec 8

/-- A 16-bit value: the checksum register and the Received Checksum (`40_checksum_engine.md` R70). -/
abbrev Word16 := BitVec 16

/-- The selector word `W` with its 13 bits (`30_encoding.md` R54). -/
abbrev SelectorWord := BitVec 13

end Sys2Proof
end

