-- ==== Sys2Proof/Config.lean ====
section
/-! DEFINITION. The fixed constants of `00_scope.md` R6, the one build parameter of R5, and the free
values: constants without a body, of which nothing can be proved but their type. -/

namespace Sys2Proof.Config

/-- `SYNC1`, the first synchronisation byte (R6). -/
abbrev sync1 : Byte := 0xBB

/-- `SYNC2`, the second synchronisation byte (R6). -/
abbrev sync2 : Byte := 0x66

/-- `TYPE_MEAS`, the type of a measurement frame (R6). -/
abbrev typeMeas : Byte := 0x15

/-- `CRC_INIT`, the initial checksum register (R6). -/
abbrev crcInit : Word16 := 0xFFFF

/-- `CRC_POLY`, XORed in after a shift that shifted out a 1 (R6). -/
abbrev crcPoly : Word16 := 0xA001

/-- `HDR`, the bytes before the payload: Sync1, Sync2, Type, Length (R6). -/
abbrev hdr : Nat := 4

/-- `DOM0`, the buffer position where the checksum domain starts (R6). -/
abbrev dom0 : Nat := 2

/-- How far the capacity of the instance `State.reset` describes exceeds the header.
DESIGN CHOICE (log 1): `CAP` is OPEN in the spec (R5, D5), so the value is free. -/
opaque capAboveHeader : Nat

/-- `CAP` of the instance `State.reset` describes: any capacity of at least `HDR` (R5, D5). -/
def cap : Nat := capAboveHeader + hdr

/-- `CW`, the width in bits of `cursor`, `frame_length` and `rd_addr` (R5, D6). -/
def cw (capacity : Nat) : Nat := Nat.clog 2 (capacity + 1)

/-- `rem` after the first RESET of a new instance: unspecified (`10_state.md` R22, D13).
DESIGN CHOICE (log 2): a draw. -/
opaque resetRem : Byte

/-- `cklo` after the first RESET of a new instance: unspecified (`10_state.md` R22, D13).
DESIGN CHOICE (log 2): a draw. -/
opaque resetCklo : Byte

/-- What a Frame Buffer position reads as before its first write: unspecified (`20_memory.md` R33, D13).
DESIGN CHOICE (log 3): a draw, one for each position. -/
opaque unwrittenByte : Nat → Byte

/-- `rd_data` for an `rd_addr` at or beyond `CAP`: any value (`20_memory.md` R33, D12).
DESIGN CHOICE (log 4): a draw, one for each address. -/
opaque unmappedByte : Nat → Byte

/-- `rem - 1` for `rem = 0`, which no rule computes (`10_state.md` R13, `41_frame_assembler.md` R93).
DESIGN CHOICE (log 5): the spec says to assume no wrap-around (N6), so the value is free. -/
opaque remBelowZero : Byte

end Sys2Proof.Config
end

