-- ==== Sys2Proof/Machine/State.lean ====
section
/-! DEFINITION. The state of one Assembler (`10_state.md` R10), with the outputs of the step just made,
the host's coming inputs and the build parameter; the faults, the refusals, and the state after reset. -/

namespace Sys2Proof.Machine

/-- The Parser State `st` (`10_state.md` R11), in the order of its codes 0 to 7. -/
inductive ParserState where
  | awaitingSync1
  | awaitingSync2
  | awaitingType
  | awaitingLength
  | awaitingPayload
  | awaitingChecksumLow
  | awaitingChecksumHigh
  /-- Code 7, which names no parser state and which no rule writes (`30_encoding.md` R57).
  DESIGN CHOICE (log 7): the bit-level form, so that the row RESERVED can be met. -/
  | reservedCode
  deriving DecidableEq, Repr

/-- One step's input, as `00_scope.md` R7 gives it. -/
inductive Input where
  | reset
  | noByte
  | byte (b : Byte)
  deriving DecidableEq, Repr

/-- One step's input at the pins `rst`, `in_valid`, `in_byte` (`10_state.md` R18). -/
structure Pins where
  rst : Bool
  inValid : Bool
  inByte : Byte
  deriving DecidableEq, Repr

/-- The result of a step (`00_scope.md` R7, `41_frame_assembler.md` R80). -/
inductive Result where
  | incomplete
  | complete (frameLength : Nat)
  deriving DecidableEq, Repr

/-- The diagnostic output of a step (`00_scope.md` R7, `60_exceptions.md` R110). -/
inductive Diag where
  | none
  | crcMismatch
  | overflow
  deriving DecidableEq, Repr

/-- The outputs of one step (`00_scope.md` R7). -/
structure Output where
  result : Result
  diag : Diag
  deriving DecidableEq, Repr

/-- What a step outputs where no rule says otherwise (`00_scope.md` R8). -/
abbrev Output.idle : Output := ⟨.incomplete, .none⟩

/-- The Frame Buffer: the positions written so far with their bytes, positions strictly rising
(`10_state.md` R16). A position that is not listed has not been written (R22). -/
abbrev Memory := List Host.Cell

/-- The machine.
`st`, `cursor`, `rem`, `cklo`, `buf` are the five pieces of `10_state.md` R10. -/
structure State where
  /-- `CAP`, fixed when the Assembler is built (`00_scope.md` R5, `10_state.md` R18; log 1). -/
  cap : Nat
  /-- The Parser State (R11). -/
  st : ParserState
  /-- The write position of the Frame Buffer (R12; a natural number, log 6). -/
  cursor : Nat
  /-- The Remaining Payload Counter (R13). -/
  rem : Byte
  /-- The stored low byte of the Received Checksum (R14). -/
  cklo : Byte
  /-- The Frame Buffer (R16). -/
  buf : Memory
  /-- What the host presents at the pins in the coming steps, next first (the model's own field, log 8). -/
  inputs : List Pins
  /-- The outputs of the step just made, not latched (R18; log 9). -/
  out : Output
  deriving DecidableEq, Repr

/-- Why the machine stops with a fault. -/
inductive Fault where
  /-- An access at or beyond position `CAP`, which does not exist (`20_memory.md` R30 to R32).
  Raised by SYNC1_HIT, SYNC2_HIT, TYPE, LEN, PAYLOAD and CKHI when `cursor > CAP`, a state `10_state.md` R12
  excludes. Safe: no state the spec allows raises it (log 10). -/
  | cursorBeyondCapacity
  deriving DecidableEq, Repr

/-- Why no meaning is given. -/
inductive Refusal where
  /-- An instruction without a meaning yet. Raised by `exec`'s refused arms. Safe. -/
  | notModelled (mnemonic : String)
  /-- State code 7. Raised by RESERVED; the spec refuses the step (`30_encoding.md` R57, D4). Safe. -/
  | reservedStateCode
  /-- A selector word no row takes. Raised by `step`; there is no such word (`30_encoding.md` R56). Safe. -/
  | noRow
  /-- A capacity below the header. Raised by `construct`; the spec refuses it at construction (D5). Safe. -/
  | capacityBelowHeader
  deriving DecidableEq, Repr

/-- A new Assembler of capacity `cap` right after its first RESET (`10_state.md` R22,
`70_reset_and_hazards.md` R130). `rem`, `cklo` and `buf` are unspecified there (logs 2, 3). -/
def State.resetOf (cap : Nat) : State :=
  { cap := cap
    st := .awaitingSync1
    cursor := 0
    rem := Config.resetRem
    cklo := Config.resetCklo
    buf := []
    inputs := []
    out := .idle }

/-- The machine right after reset (`10_state.md` R22), with the open capacity of `Config.cap` (log 1). -/
def State.reset : State := State.resetOf Config.cap

end Sys2Proof.Machine
end

