-- ==== Sys2Proof/Machine/Flags.lean ====
section
/-! DEFINITION. The predicates a step computes and consumes (`10_state.md` R17). None is stored.
The two sync comparisons of R17 are `isSync1` and `isSync2` of WellFormed.lean; the decoder makes them. -/

namespace Sys2Proof.Machine

/-- `cursor = CAP`: decides `BufferOverflow` instead of the store (`10_state.md` R17, `20_memory.md` R31). -/
def State.bufferFull (s : State) : Bool := s.cursor == s.cap

/-- `rem > 0`, unsigned, that is `rem ≠ 0` (`10_state.md` R17, `41_frame_assembler.md` R93). -/
def payloadPending (rem : Byte) : Bool := rem != 0

/-- `{b, cklo} = Crc16(..)`: 16-bit equality (`10_state.md` R17, `41_frame_assembler.md` R90). -/
def checksumMatches (received computed : Word16) : Bool := received == computed

end Sys2Proof.Machine
end

