-- ==== Sys2Proof/Machine/Ops.lean ====
section
/-! DEFINITION. The named operations over the registers and the Frame Buffer: `MemRead`, `MemWrite`,
`Append` (`20_memory.md` R31, R32) and the shared recovery of the three conditions (`60_exceptions.md` R116). -/

namespace Sys2Proof.Machine

/-- The byte listed at a position, if the position has been written (`20_memory.md` R32). -/
def Memory.read : Memory → Nat → Option Byte
  | [], _ => none
  | (k, v) :: m, i => if i = k then some v else Memory.read m i

/-- The store of one byte; every other position unchanged (`20_memory.md` R31). Keeps the positions rising. -/
def Memory.write : Memory → Nat → Byte → Memory
  | [], i, b => [(i, b)]
  | (k, v) :: m, i, b =>
    if i < k then (i, b) :: (k, v) :: m
    else if i = k then (i, b) :: m
    else (k, v) :: Memory.write m i b

/-- The canonical form: positions strictly rising. What an unlisted position reads as is no listed byte
(it is unspecified), so no entry can equal it. -/
abbrev Memory.wf (m : Memory) : Prop := m.Pairwise (fun x y => x.1 < y.1)

/-- `MemRead(i, 1)`: the byte at a position (`20_memory.md` R32); before its first write a draw
(R33, D13; log 3). -/
def State.memRead (s : State) (i : Nat) : Byte := (s.buf.read i).getD (Config.unwrittenByte i)

/-- `buf[first], …`, `count` bytes in ascending order (`00_scope.md` R8). -/
def State.bufRange (s : State) (first count : Nat) : List Byte :=
  (List.range' first count).map s.memRead

/-- `MemWrite(i, 1, b)` (`20_memory.md` R31). -/
def State.memWrite (s : State) (i : Nat) (b : Byte) : State := { s with buf := s.buf.write i b }

/-- `st <- p`. -/
def State.goto (s : State) (p : ParserState) : State := { s with st := p }

/-- `cursor <- n`. -/
def State.setCursor (s : State) (n : Nat) : State := { s with cursor := n }

/-- `rem <- b`. -/
def State.setRem (s : State) (b : Byte) : State := { s with rem := b }

/-- `cklo <- b`. -/
def State.setCklo (s : State) (b : Byte) : State := { s with cklo := b }

/-- `result <- r ; diag <- d`. -/
def State.emit (s : State) (o : Output) : State := { s with out := o }

/-- `rem - 1` (`41_frame_assembler.md` R88); for `rem = 0`, which no rule computes, a free value (log 5). -/
def decrement (rem : Byte) : Byte := if rem = 0 then Config.remBelowZero else rem - 1

/-- The three recoverable conditions (`60_exceptions.md` R110). -/
inductive Condition where
  | syncFailure
  | checksumMismatch
  | bufferOverflow
  deriving DecidableEq, Repr

/-- What a condition shows at `diag` (`60_exceptions.md` R110). -/
def Condition.diag : Condition → Diag
  | .syncFailure => .none
  | .checksumMismatch => .crcMismatch
  | .bufferOverflow => .overflow

/-- `raise c`: the recovery all three conditions share (`60_exceptions.md` R111 to R113, R116).
`buf`, `rem`, `cklo` are unchanged and nothing is saved, so there is no return operation (R117). -/
def raise (c : Condition) (s : State) : State :=
  ((s.setCursor 0).goto .awaitingSync1).emit ⟨.incomplete, c.diag⟩

/-- The store and the increment of `Append` (`20_memory.md` R31), with the step's default outputs. -/
def State.appendByte (s : State) (b : Byte) : State :=
  ((s.memWrite s.cursor b).setCursor (s.cursor + 1)).emit .idle

/-- `Append(b)` and then the rest of the operation (`20_memory.md` R31): when the buffer is full,
`BufferOverflow` is raised and nothing of the rest happens (`60_exceptions.md` R115).
With `cursor > CAP`, which `10_state.md` R12 excludes, the position does not exist (log 10). -/
def appendThen (b : Byte) (rest : State → State) (s : State) : Host.Outcome State Fault Refusal :=
  if s.bufferFull then .next (raise .bufferOverflow s)
  else if s.cursor < s.cap then .next (rest (s.appendByte b))
  else .fault .cursorBeyondCapacity

end Sys2Proof.Machine
end

