-- ==== Sys2Proof/Machine/Control.lean ====
section
/-! DEFINITION. RESET, RESERVED and NOP: the operations that take no byte. -/

namespace Sys2Proof.Machine

/-- RESET (`70_reset_and_hazards.md` R130): `rem`, `cklo` and `buf` of a running Assembler are unchanged. -/
def execReset (s : State) : Host.Outcome State Fault Refusal :=
  .next (((s.goto .awaitingSync1).setCursor 0).emit .idle)

/-- RESERVED (`30_encoding.md` R57): state code 7 has no meaning, and a bit-level model refuses the step. -/
def execReserved (_s : State) : Host.Outcome State Fault Refusal := .refused .reservedStateCode

/-- NOP (`41_frame_assembler.md` R81): nothing is written. -/
def execNop (s : State) : Host.Outcome State Fault Refusal := .next (s.emit .idle)

end Sys2Proof.Machine
end

