-- ==== Sys2Proof/Machine/Checksum.lean ====
section
/-! DEFINITION. The Checksum Engine: a pure function without state (`40_checksum_engine.md` R74). -/

namespace Sys2Proof.Machine

/-- `CrcBit(r)`: one shift step; the bit tested is bit 0 before the shift (`40_checksum_engine.md` R70). -/
def crcBit (r : Word16) : Word16 :=
  if r.getLsbD 0 then (r >>> 1) ^^^ Config.crcPoly else r >>> 1

/-- `CrcBit` applied `n` times. -/
def crcShift : Nat → Word16 → Word16
  | 0, r => r
  | n + 1, r => crcShift n (crcBit r)

/-- `CrcByte(r, b)`: the byte XORed into bits 7:0 once, then eight shift steps (`40_checksum_engine.md` R71). -/
def crcByte (r : Word16) (b : Byte) : Word16 := crcShift 8 (r ^^^ b.setWidth 16)

/-- `Crc16(s)`: every byte in ascending order, from `CRC_INIT`; no final XOR (`40_checksum_engine.md` R72). -/
def crc16 (s : List Byte) : Word16 := s.foldl crcByte Config.crcInit

end Sys2Proof.Machine
end

