-- ==== Sys2Proof/Machine/Operands.lean ====
section
/-! DEFINITION. The operand forms: how an operation makes its values from the input byte and the state. -/

namespace Sys2Proof.Machine

/-- The Length byte as the counter's value: unchanged, neither scaled nor extended (`30_encoding.md` R52). -/
def lengthOperand (b : Byte) : Byte := b

/-- The 16-bit value of a low and a high byte, low byte first on the wire (`20_memory.md` R34). -/
def littleEndian (low high : Byte) : Word16 := (high.setWidth 16 <<< 8) ||| low.setWidth 16

/-- The Received Checksum `rxck`, from `cklo` and the byte of the CKHI step (`30_encoding.md` R53). -/
def State.receivedChecksum (s : State) (b : Byte) : Word16 := littleEndian s.cklo b

/-- The checksum domain `buf[2 .. cursor-1]`, empty when `cursor-1 < 2` (`20_memory.md` R32, `00_scope.md` R8). -/
def State.checksumDomain (s : State) : List Byte := s.bufRange Config.dom0 (s.cursor - Config.dom0)

/-- The computed checksum `calc` of the CKHI step (`41_frame_assembler.md` R90). -/
def State.computedChecksum (s : State) : Word16 := crc16 s.checksumDomain

/-- Where LEN and PAYLOAD go, by the counter they leave (`41_frame_assembler.md` R87, R88). -/
def stateAfterCount (rem : Byte) : ParserState :=
  if payloadPending rem then .awaitingPayload else .awaitingChecksumLow

end Sys2Proof.Machine
end

