-- ==== Sys2Proof/Machine/Frame.lean ====
section
/-! DEFINITION. The frame's body and its acceptance: TYPE, LEN, PAYLOAD, CKLO, CKHI. -/

namespace Sys2Proof.Machine

/-- TYPE (`41_frame_assembler.md` R86): the value is not examined. -/
def execType (b : Byte) (s : State) : Host.Outcome State Fault Refusal :=
  appendThen b (fun t => t.goto .awaitingLength) s

/-- LEN (`41_frame_assembler.md` R87): no check of the length against `CAP`. -/
def execLen (b : Byte) (s : State) : Host.Outcome State Fault Refusal :=
  appendThen b (fun t => (t.setRem (lengthOperand b)).goto (stateAfterCount (lengthOperand b))) s

/-- PAYLOAD (`41_frame_assembler.md` R88): the test uses the counter after the decrement. -/
def execPayload (b : Byte) (s : State) : Host.Outcome State Fault Refusal :=
  appendThen b (fun t => (t.setRem (decrement t.rem)).goto (stateAfterCount (decrement t.rem))) s

/-- CKLO (`41_frame_assembler.md` R89): not appended. -/
def execCklo (b : Byte) (s : State) : Host.Outcome State Fault Refusal :=
  .next (((s.setCklo b).goto .awaitingChecksumHigh).emit .idle)

/-- A match in CKHI: `frame_length` is the cursor as it stood on entry (`41_frame_assembler.md` R90, R95). -/
def State.accept (s : State) : State :=
  ((s.setCursor 0).goto .awaitingSync1).emit ⟨.complete s.cursor, .none⟩

/-- CKHI (`41_frame_assembler.md` R90): accept or reject the candidate.
With `cursor > CAP`, which `10_state.md` R12 excludes, the checksum would read a position that does not exist
(log 10). -/
def execCkhi (b : Byte) (s : State) : Host.Outcome State Fault Refusal :=
  if s.cursor ≤ s.cap then
    .next (if checksumMatches (s.receivedChecksum b) s.computedChecksum then s.accept
           else raise .checksumMismatch s)
  else .fault .cursorBeyondCapacity

end Sys2Proof.Machine
end

