-- ==== Sys2Proof/Machine/Sync.lean ====
section
/-! DEFINITION. The sync search: SYNC1_HIT, SYNC1_MISS, SYNC2_HIT, SYNC2_MISS. -/

namespace Sys2Proof.Machine

/-- SYNC1_HIT (`41_frame_assembler.md` R82). -/
def execSync1Hit (s : State) : Host.Outcome State Fault Refusal :=
  appendThen Config.sync1 (fun t => t.goto .awaitingSync2) s

/-- SYNC1_MISS (`41_frame_assembler.md` R83): the byte is stored nowhere. -/
def execSync1Miss (_b : Byte) (s : State) : Host.Outcome State Fault Refusal :=
  .next (((s.setCursor 0).goto .awaitingSync1).emit .idle)

/-- SYNC2_HIT (`41_frame_assembler.md` R84). -/
def execSync2Hit (s : State) : Host.Outcome State Fault Refusal :=
  appendThen Config.sync2 (fun t => t.goto .awaitingType) s

/-- SYNC2_MISS (`41_frame_assembler.md` R85): the byte is discarded, not tried again as Sync1. -/
def execSync2Miss (_b : Byte) (s : State) : Host.Outcome State Fault Refusal :=
  .next (raise .syncFailure s)

end Sys2Proof.Machine
end

