-- ==== Sys2Proof/Syntax.lean ====
section
/-! DEFINITION. The operations: one constructor for each row of `30_encoding.md` R56, in its order. -/

namespace Sys2Proof

/-- The operations a step can perform (`30_encoding.md` R56).
The one operand is the input byte (R55); a row whose pattern fixes the byte or ignores it carries none (log 12). -/
inductive Instr where
  /-- RESET, row 1 (`70_reset_and_hazards.md` R130). -/
  | reset
  /-- RESERVED, row 2: state code 7 (R57). -/
  | reserved
  /-- NOP, row 3: no byte available (`41_frame_assembler.md` R81). -/
  | nop
  /-- SYNC1_HIT, row 4: the byte is `SYNC1` (R82). -/
  | sync1Hit
  /-- SYNC1_MISS, row 5: any other byte (R83). -/
  | sync1Miss (b : Byte)
  /-- SYNC2_HIT, row 6: the byte is `SYNC2` (R84). -/
  | sync2Hit
  /-- SYNC2_MISS, row 7: any other byte (R85). -/
  | sync2Miss (b : Byte)
  /-- TYPE, row 8 (R86). -/
  | type (b : Byte)
  /-- LEN, row 9 (R87). -/
  | len (b : Byte)
  /-- PAYLOAD, row 10 (R88). -/
  | payload (b : Byte)
  /-- CKLO, row 11 (R89). -/
  | cklo (b : Byte)
  /-- CKHI, row 12 (R90). -/
  | ckhi (b : Byte)
  deriving DecidableEq, Repr

end Sys2Proof
end

