-- ==== Sys2Proof/Machine/Dispatch.lean ====
section
/-! DEFINITION. The meaning of each operation, one arm a constructor (`30_encoding.md` R56). -/

namespace Sys2Proof.Machine

/-- The operation `i` performed in the state `s` (`41_frame_assembler.md` R80). -/
def exec (i : Instr) (s : State) : Host.Outcome State Fault Refusal :=
  match i with
  | .reset => Sys2Proof.Machine.execReset s
  | .reserved => Sys2Proof.Machine.execReserved s
  | .nop => Sys2Proof.Machine.execNop s
  | .sync1Hit => Sys2Proof.Machine.execSync1Hit s
  | .sync1Miss b => Sys2Proof.Machine.execSync1Miss b s
  | .sync2Hit => Sys2Proof.Machine.execSync2Hit s
  | .sync2Miss b => Sys2Proof.Machine.execSync2Miss b s
  | .type b => Sys2Proof.Machine.execType b s
  | .len b => Sys2Proof.Machine.execLen b s
  | .payload b => Sys2Proof.Machine.execPayload b s
  | .cklo b => Sys2Proof.Machine.execCklo b s
  | .ckhi b => Sys2Proof.Machine.execCkhi b s

end Sys2Proof.Machine
end

