-- ==== Sys2Proof/WellFormed.lean ====
section
/-! DEFINITION. Which terms of `Instr` some selector word stands for. -/

namespace Sys2Proof

/-- The comparison `b = 0xBB` that AwaitingSync1 makes (`10_state.md` R17). -/
def isSync1 (b : Byte) : Bool := b == Config.sync1

/-- The comparison `b = 0x66` that AwaitingSync2 makes (`10_state.md` R17). -/
def isSync2 (b : Byte) : Bool := b == Config.sync2

/-- A MISS row stands after its HIT row, so its byte is never the sync byte (`30_encoding.md` R54, R56);
every other row takes every byte (R58). -/
def wellFormed : Instr → Bool
  | .reset => true
  | .reserved => true
  | .nop => true
  | .sync1Hit => true
  | .sync1Miss b => !isSync1 b
  | .sync2Hit => true
  | .sync2Miss b => !isSync2 b
  | .type _ => true
  | .len _ => true
  | .payload _ => true
  | .cklo _ => true
  | .ckhi _ => true

end Sys2Proof
end

