-- ==== Sys2Proof/Decode.lean ====
section
/-! DEFINITION. The operation map of `30_encoding.md` R56 as data, the decoder over it, and the encoder. -/

namespace Sys2Proof

/-- Why a number is refused as a selector word. -/
inductive DecodeReject where
  /-- It has more than the 13 bits of `W` (`30_encoding.md` R54); it is not truncated (R58, D3). -/
  | tooWide
  /-- No row of the map takes it. R56: "Every 13-bit word matches some row", so nothing raises it. -/
  | noRow
  deriving DecidableEq, Repr

/-- One row of the map (`30_encoding.md` R56): it takes `W` when `(W & mask) = match`. -/
structure Row where
  mask : SelectorWord
  pattern : SelectorWord
  build : Byte → Instr

/-- The twelve rows, in decode order (`30_encoding.md` R56). -/
def rows : List Row :=
  [ ⟨0x1000, 0x1000, fun _ => .reset⟩,
    ⟨0x1E00, 0x0E00, fun _ => .reserved⟩,
    ⟨0x1100, 0x0000, fun _ => .nop⟩,
    ⟨0x1FFF, 0x01BB, fun _ => .sync1Hit⟩,
    ⟨0x1F00, 0x0100, .sync1Miss⟩,
    ⟨0x1FFF, 0x0366, fun _ => .sync2Hit⟩,
    ⟨0x1F00, 0x0300, .sync2Miss⟩,
    ⟨0x1F00, 0x0500, .type⟩,
    ⟨0x1F00, 0x0700, .len⟩,
    ⟨0x1F00, 0x0900, .payload⟩,
    ⟨0x1F00, 0x0B00, .cklo⟩,
    ⟨0x1F00, 0x0D00, .ckhi⟩ ]

/-- The row test of `30_encoding.md` R54. -/
def Row.takes (w : SelectorWord) (r : Row) : Bool := w &&& r.mask == r.pattern

/-- The operand `b = W[7:0]` (`30_encoding.md` R55). -/
def operandByte (w : SelectorWord) : Byte := w.extractLsb' 0 8

/-- The operation of a selector word: the first row that takes it (`30_encoding.md` R54). -/
def decode (w : SelectorWord) : Except DecodeReject Instr :=
  match rows.find? (Row.takes w) with
  | some r => .ok (r.build (operandByte w))
  | none => .error .noRow

/-- The decoder on any number; what does not fit the 13 bits is refused, not truncated
(`30_encoding.md` R58, D3). -/
def decodeNat (w : Nat) : Except DecodeReject Instr :=
  if w < 2 ^ 13 then decode (BitVec.ofNat 13 w) else .error .tooWide

/-- The instruction the decoder reads from the number `w`, whose bits are those of `W`
(`30_encoding.md` R54). The bits above the row's own are zeros of `w` whatever their count. -/
def decodeTableWord (_nbits w : Nat) : Option Instr :=
  match decodeNat w with
  | .ok i => some i
  | .error _ => none

/-- A selector word of an operation, from `30_encoding.md` R56: its match, with the operand in `W[7:0]`
and its don't-care bits 0. -/
def encode : Instr → SelectorWord
  | .reset => 0x1000
  | .reserved => 0x0E00
  | .nop => 0x0000
  | .sync1Hit => 0x01BB
  | .sync1Miss b => 0x0100 ||| b.setWidth 13
  | .sync2Hit => 0x0366
  | .sync2Miss b => 0x0300 ||| b.setWidth 13
  | .type b => 0x0500 ||| b.setWidth 13
  | .len b => 0x0700 ||| b.setWidth 13
  | .payload b => 0x0900 ||| b.setWidth 13
  | .cklo b => 0x0B00 ||| b.setWidth 13
  | .ckhi b => 0x0D00 ||| b.setWidth 13

/-- The bits of `W` that are not don't-care (`x`) in an operation's pattern (`30_encoding.md` R56). -/
def careMask : Instr → SelectorWord
  | .reset => 0x1000
  | .reserved => 0x1E00
  | .nop => 0x1100
  | .sync1Hit => 0x1FFF
  | .sync1Miss _ => 0x1FFF
  | .sync2Hit => 0x1FFF
  | .sync2Miss _ => 0x1FFF
  | .type _ => 0x1FFF
  | .len _ => 0x1FFF
  | .payload _ => 0x1FFF
  | .cklo _ => 0x1FFF
  | .ckhi _ => 0x1FFF

end Sys2Proof
end

