-- ==== Sys2Proof/Machine/Fetch.lean ====
section
/-! DEFINITION. How a step comes by its operation: the input sample, the selector word, the decoder. -/

namespace Sys2Proof.Machine

/-- The code of a parser state (`10_state.md` R11). -/
def ParserState.code : ParserState → BitVec 3
  | .awaitingSync1 => 0
  | .awaitingSync2 => 1
  | .awaitingType => 2
  | .awaitingLength => 3
  | .awaitingPayload => 4
  | .awaitingChecksumLow => 5
  | .awaitingChecksumHigh => 6
  | .reservedCode => 7

/-- The parser state of a code (`10_state.md` R11). -/
def ParserState.ofCode (c : BitVec 3) : ParserState :=
  if c = 0 then .awaitingSync1
  else if c = 1 then .awaitingSync2
  else if c = 2 then .awaitingType
  else if c = 3 then .awaitingLength
  else if c = 4 then .awaitingPayload
  else if c = 5 then .awaitingChecksumLow
  else if c = 6 then .awaitingChecksumHigh
  else .reservedCode

/-- The input a sample of the pins stands for (`10_state.md` R18): `rst` first
(`70_reset_and_hazards.md` R131), then `in_valid`. -/
def Pins.input (p : Pins) : Input :=
  if p.rst then .reset else if p.inValid then .byte p.inByte else .noByte

/-- A sample of the pins that stands for an input; pins the input ignores are 0 (`10_state.md` R18). -/
def Input.pins : Input → Pins
  | .reset => ⟨true, false, 0⟩
  | .noByte => ⟨false, false, 0⟩
  | .byte b => ⟨false, true, b⟩

/-- The pins in the coming step; a host that has presented everything it has leaves `in_valid` at 0
(`70_reset_and_hazards.md` R135; log 8). -/
def State.pins (s : State) : Pins := s.inputs.headD Input.noByte.pins

/-- The state once the coming sample is taken; a byte is consumed once (`41_frame_assembler.md` R80). -/
def State.consume (s : State) : State := { s with inputs := s.inputs.tail }

/-- The selector word `W = {rst, st[2:0], in_valid, in_byte[7:0]}` (`30_encoding.md` R54). -/
def selector (p : ParserState) (x : Pins) : SelectorWord :=
  BitVec.ofBool x.rst ++ p.code ++ BitVec.ofBool x.inValid ++ x.inByte

/-- The operation of the coming step (`30_encoding.md` R54, `41_frame_assembler.md` R80). -/
def State.fetch (s : State) : Except DecodeReject Instr := decode (selector s.st s.pins)

/-- `W[11:9]` as a parser state (`30_encoding.md` R54). -/
def parserStateOfWord (w : SelectorWord) : ParserState := ParserState.ofCode (w.extractLsb' 9 3)

/-- `W[12]`, `W[8]` and `W[7:0]` as a sample of the pins (`30_encoding.md` R54). -/
def pinsOfWord (w : SelectorWord) : Pins := ⟨w.getLsbD 12, w.getLsbD 8, operandByte w⟩

/-- The state whose coming step has the selector word `w`: the parser state and the next sample are those of
`w`, and everything else is as it was (log 8). -/
def State.present (s : State) (w : SelectorWord) : State :=
  { s with st := parserStateOfWord w, inputs := pinsOfWord w :: s.inputs }

end Sys2Proof.Machine
end

