-- ==== Sys2Proof/Machine/Step.lean ====
section
/-! DEFINITION. One step (`41_frame_assembler.md` R80): one operation is selected and performed completely. -/

namespace Sys2Proof.Machine

/-- One step of the Assembler: its sample is taken, and the selected operation performed
(`41_frame_assembler.md` R80). -/
def step (s : State) : Host.Outcome State Fault Refusal :=
  match s.fetch with
  | .ok i => exec i s.consume
  | .error _ => .refused .noRow

/-- The step on a given input, the `feed` of `41_frame_assembler.md` R80 (`00_scope.md` R7): the input is presented
before whatever the host was to present. -/
def feed (x : Input) (s : State) : Host.Outcome State Fault Refusal :=
  step { s with inputs := x.pins :: s.inputs }

/-- `s` with the selector word `w` where the coming step finds it: the parser state and the next sample (log 8). -/
def State.withFetchWord (s : State) (_nbits w : Nat) : State := s.present (BitVec.ofNat 13 w)

end Sys2Proof.Machine
end

