-- ==== Sys2Proof/Machine/Ports.lean ====
section
/-! DEFINITION. What the host sees and does between steps: the output pins (`10_state.md` R18), the read port
(`20_memory.md` R33), the decode of a reading (`42_measurement_decode.md` R100), and construction (D5). -/

namespace Sys2Proof.Machine

/-- The pin `frame_complete` (`10_state.md` R18). -/
def State.frameComplete (s : State) : BitVec 1 :=
  match s.out.result with
  | .complete _ => 1
  | .incomplete => 0

/-- The pins `frame_length`: 0 when `frame_complete` is 0 (`10_state.md` R18). -/
def State.frameLength (s : State) : Nat :=
  match s.out.result with
  | .complete n => n
  | .incomplete => 0

/-- The codes at the pins `diag` (`10_state.md` R18, `60_exceptions.md` R110). -/
def Diag.code : Diag → BitVec 2
  | .none => 0
  | .crcMismatch => 1
  | .overflow => 2

/-- The pins `diag` (`10_state.md` R18). -/
def State.diagPins (s : State) : BitVec 2 := s.out.diag.code

/-- `rd_data` for an `rd_addr` (`20_memory.md` R33): the buffer's byte below `CAP`, any value from there on
(log 4). -/
def State.rdData (s : State) (addr : Nat) : Byte :=
  if addr < s.cap then s.memRead addr else Config.unmappedByte addr

/-- `DecodeReading(buf, L)` (`42_measurement_decode.md` R100), of a buffer as the read port shows it. -/
def decodeReading (buf : Nat → Byte) (frameLength : Nat) : Option Word16 :=
  if buf 2 = Config.typeMeas ∧ 6 ≤ frameLength then some (littleEndian (buf 4) (buf 5)) else none

/-- What the host decodes after a step: only in response to `Complete` (`42_measurement_decode.md` R102). -/
def State.reading (s : State) : Option Word16 :=
  match s.out.result with
  | .complete n => decodeReading s.rdData n
  | .incomplete => none

/-- Building an Assembler and its first RESET (`70_reset_and_hazards.md` R132): a capacity that the header would
not fit is refused (D5). -/
def construct (cap : Nat) : Host.Outcome State Fault Refusal :=
  if Config.hdr ≤ cap then .next (State.resetOf cap) else .refused .capacityBelowHeader

end Sys2Proof.Machine
end

