-- ==== Sys2Proof/Machine/Stream.lean ====
section
/-! DEFINITION. The wire format and the stream notation (`30_encoding.md` R50, R60). -/

namespace Sys2Proof.Machine

/-- The checksum domain of a frame: Type, Length, Payload (`30_encoding.md` R50). -/
def frameDomain (type : Byte) (payload : List Byte) : List Byte :=
  type :: BitVec.ofNat 8 payload.length :: payload

/-- A frame's bytes with given trailing bytes in place of its checksum (`30_encoding.md` R50). -/
def frameWith (type : Byte) (payload : List Byte) (low high : Byte) : List Byte :=
  Config.sync1 :: Config.sync2 :: (frameDomain type payload ++ [low, high])

/-- The macro `FRAME(t; p0 … p(n-1))` (`30_encoding.md` R60), for at most 255 payload bytes. -/
def frame (type : Byte) (payload : List Byte) : List Byte :=
  let c := crc16 (frameDomain type payload)
  frameWith type payload (c.extractLsb' 0 8) (c.extractLsb' 8 8)

/-- A stream as the samples that feed it, one item a step: a byte, `--`, or `RST` (`30_encoding.md` R60). -/
def stream (items : List Input) : List Pins := items.map Input.pins

/-- A stream of bytes only (`30_encoding.md` R60). -/
def byteStream (bytes : List Byte) : List Pins := stream (bytes.map .byte)

end Sys2Proof.Machine
end

