-- ==== Sys2Proof/Safety.lean ====
section
/-! DEFINITION. The terms claims are stated in: the invariants of `10_state.md` R21, the operation map read by
fields, and runs. -/

namespace Sys2Proof.Machine

/-- A byte is listed at a position: it has been written, and this is it. -/
abbrev State.holds (s : State) (i : Nat) (b : Byte) : Prop := s.buf.read i = some b

/-- `buf[0..1] = BB 66` (`10_state.md` R21). -/
abbrev State.syncHeld (s : State) : Prop := s.holds 0 Config.sync1 ∧ s.holds 1 Config.sync2

/-- The row of the table of `10_state.md` R21 for a parser state. The reserved code has no row. -/
def State.row (s : State) : ParserState → Prop
  | .awaitingSync1 => s.cursor = 0
  | .awaitingSync2 => s.cursor = 1 ∧ s.holds 0 Config.sync1
  | .awaitingType => s.cursor = 2 ∧ s.syncHeld
  | .awaitingLength => s.cursor = 3 ∧ s.syncHeld
  | .awaitingPayload =>
      4 ≤ s.cursor ∧ s.rem ≠ 0 ∧ s.cursor + s.rem.toNat = 4 + (s.memRead 3).toNat ∧ s.syncHeld
  | .awaitingChecksumLow => s.cursor = 4 + (s.memRead 3).toNat ∧ s.rem = 0 ∧ s.syncHeld
  | .awaitingChecksumHigh => s.cursor = 4 + (s.memRead 3).toNat ∧ s.rem = 0 ∧ s.syncHeld
  | .reservedCode => False

/-- The invariant of the reachable states (`10_state.md` R21), with the buffer in its canonical form and within
its capacity (`20_memory.md` R30, R39). -/
structure State.Inv (s : State) : Prop where
  /-- `CAP >= 4` (`00_scope.md` R5). -/
  capFits : Config.hdr ≤ s.cap
  /-- "Invariant: write cursor never exceeds capacity" (R12). -/
  cursorFits : s.cursor ≤ s.cap
  /-- The canonical form of the buffer. -/
  canonical : s.buf.wf
  /-- The buffer has the positions `0 .. CAP-1` and no others (R16). -/
  inside : ∀ c ∈ s.buf, c.1 < s.cap
  /-- "every position `i < cursor` of `buf` has been written" (R21). -/
  written : ∀ i < s.cursor, (s.buf.read i).isSome
  /-- The table of R21. -/
  row : s.row s.st

/-- The operation map of `30_encoding.md` R56 read by its column "selected when". -/
def selectedWhen (p : ParserState) (x : Input) : Instr :=
  match x, p with
  | .reset, _ => .reset
  | .noByte, .reservedCode => .reserved
  | .byte _, .reservedCode => .reserved
  | .noByte, _ => .nop
  | .byte b, .awaitingSync1 => if isSync1 b then .sync1Hit else .sync1Miss b
  | .byte b, .awaitingSync2 => if isSync2 b then .sync2Hit else .sync2Miss b
  | .byte b, .awaitingType => .type b
  | .byte b, .awaitingLength => .len b
  | .byte b, .awaitingPayload => .payload b
  | .byte b, .awaitingChecksumLow => .cklo b
  | .byte b, .awaitingChecksumHigh => .ckhi b

/-- `k` steps; it stops at the first fault or refusal (`70_reset_and_hazards.md` R140). -/
def runSteps : Nat → State → Host.Outcome State Fault Refusal
  | 0, s => .next s
  | k + 1, s =>
    match step s with
    | .next t => runSteps k t
    | .fault r => .fault r
    | .refused r => .refused r

/-- How many of the first `k` samples offer a byte: the steps with `in_valid = 1` and no reset
(`70_reset_and_hazards.md` R133). -/
def State.bytesWithin (s : State) (k : Nat) : Nat :=
  ((s.inputs.take k).filter fun p => p.inValid && !p.rst).length

/-- `t` has `b` stored at position `i`, and every other position reads as in `s` (`20_memory.md` R31). -/
abbrev State.Stored (s t : State) (i : Nat) (b : Byte) : Prop :=
  t.buf.read i = some b ∧ ∀ a, a ≠ i → t.buf.read a = s.buf.read a

/-- Every position of the buffer reads in `t` as in `s` (`20_memory.md` R38). -/
def State.BufKept (s t : State) : Prop := ∀ a, t.buf.read a = s.buf.read a

/-- `t` is `s` recovered from a condition that shows `d` at `diag` (`60_exceptions.md` R111 to R113, R116). -/
structure State.Recovered (s t : State) (d : Diag) : Prop where
  st : t.st = .awaitingSync1
  cursor : t.cursor = 0
  rem : t.rem = s.rem
  cklo : t.cklo = s.cklo
  buf : s.BufKept t
  cap : t.cap = s.cap
  inputs : t.inputs = s.inputs
  out : t.out = ⟨.incomplete, d⟩

/-- `t` is `s` after `Append(b)` and a change of parser state to `p`, the counter left at `rem`
(`20_memory.md` R31). -/
structure State.Appended (s t : State) (b : Byte) (p : ParserState) (rem : Byte) : Prop where
  buf : s.Stored t s.cursor b
  cursor : t.cursor = s.cursor + 1
  st : t.st = p
  rem : t.rem = rem
  cklo : t.cklo = s.cklo
  cap : t.cap = s.cap
  inputs : t.inputs = s.inputs
  out : t.out = ⟨.incomplete, .none⟩

/-- The two states differ at most in the counter and the stored checksum byte, and agree on each where a rule can
still read it before it is written (`10_state.md` R13, R14, R19). -/
structure State.SameButStale (s t : State) : Prop where
  cap : s.cap = t.cap
  st : s.st = t.st
  cursor : s.cursor = t.cursor
  buf : s.buf = t.buf
  inputs : s.inputs = t.inputs
  out : s.out = t.out
  rem : s.st = .awaitingPayload → s.rem = t.rem
  cklo : s.st = .awaitingChecksumHigh → s.cklo = t.cklo

/-- The machine never stops from a state: every number of steps gives a next state
(`60_exceptions.md` R110: no condition is fatal). -/
def State.NeverStops (s : State) : Prop := ∀ k, ∃ t, runSteps k s = .next t

end Sys2Proof.Machine
end

