-- ==== Sys2Proof/Certificates/Slice0/Obligations.lean ====
section
/-! DEFINITION. The statements for the provers. Each docstring says which rule of spec/ it formalises, or which
log entry it rests on. -/

open Sys2Proof Sys2Proof.Machine

/-! ### The Checksum Engine -/

/-- R70: the shift step, by the bit shifted out, with the rule's corner cases. -/
def Obligations.CrcBitShiftsAndXors : Prop :=
  (∀ r : Word16, r.getLsbD 0 = true → crcBit r = (r >>> 1) ^^^ 0xA001) ∧
  (∀ r : Word16, r.getLsbD 0 = false → crcBit r = r >>> 1 ∧ (crcBit r).getLsbD 15 = false) ∧
  crcBit 0x0000 = 0x0000 ∧ crcBit 0x0001 = 0xA001 ∧ crcBit 0x0002 = 0x0001 ∧
  crcBit 0x8000 = 0x4000 ∧ crcBit 0xFFFF = 0xDFFE

/-- R71: the byte is XORed in once, into the low half, then eight shift steps; with the rule's corner cases
and worked example. -/
def Obligations.CrcByteXorsOnceThenShifts : Prop :=
  (∀ (r : Word16) (b : Byte),
    crcByte r b = crcBit (crcBit (crcBit (crcBit (crcBit (crcBit (crcBit (crcBit (r ^^^ b.setWidth 16)))))))) ∧
    (r ^^^ b.setWidth 16).extractLsb' 8 8 = r.extractLsb' 8 8) ∧
  crcByte 0x0000 0x00 = 0x0000 ∧ crcByte 0x0000 0x01 = 0xC0C1 ∧ crcByte 0xFFFF 0x00 = 0x40BF ∧
  crcByte 0xFFFF 0xFF = 0x00FF ∧ crcByte 0xFFFF 0x15 = 0x8F7E ∧
  [1, 2, 3, 4, 5, 6, 7, 8].map (fun n => crcShift n 0xFFEA) =
    [0x7FF5, 0x9FFB, 0xEFFC, 0x77FE, 0x3BFF, 0xBDFE, 0x5EFF, 0x8F7E]

/-- R72: the empty sequence gives `0xFFFF`, one more byte runs `CrcByte` once more, and nothing is done at the end;
with the rule's corner cases and examples. -/
def Obligations.Crc16AbsorbsBytesInOrder : Prop :=
  crc16 [] = 0xFFFF ∧ (∀ (s : List Byte) (b : Byte), crc16 (s ++ [b]) = crcByte (crc16 s) b) ∧
  crc16 [0x00] = 0x40BF ∧ crc16 [0x01] = 0x807E ∧ crc16 [0xFF] = 0x00FF ∧
  crc16 [0x15, 0x00] = 0x200F ∧ crcByte 0x8F7E 0x00 = 0x200F ∧ crc16 [0x15, 0x02, 0xE8, 0x03] = 0xE9AB ∧
  crc16 [0x31, 0x32, 0x33, 0x34, 0x35, 0x36, 0x37, 0x38, 0x39] = 0x4B37

/-- From R75: a sequence followed by its own checksum, low byte first, has the checksum 0. -/
def Obligations.ChecksumOfSelfCheckedIsZero : Prop :=
  ∀ s : List Byte, crc16 (s ++ [(crc16 s).extractLsb' 0 8, (crc16 s).extractLsb' 8 8]) = 0

/-- Behind R94 (e): sequences of one length that differ in one byte have different checksums, whatever stands
before and after it. -/
def Obligations.ChecksumTellsOneChangedByte : Prop :=
  ∀ (before after : List Byte) (a b : Byte),
    crc16 (before ++ a :: after) = crc16 (before ++ b :: after) → a = b

/-- From R76: absorbing each byte as it is appended, from `0xFFFF` at TYPE, gives what the whole domain gives. -/
def Obligations.ChecksumGrowsWithAppends : Prop :=
  (∀ s : State, s.cursor = 2 → s.computedChecksum = 0xFFFF) ∧
  (∀ (s : State) (b : Byte), 2 ≤ s.cursor → (s.appendByte b).computedChecksum = crcByte s.computedChecksum b)

/-! ### Encoding -/

/-- From R56, R58: every 13-bit word selects an operation, a well-formed one. -/
def Obligations.EveryWordSelectsOneOperation : Prop :=
  ∀ w : SelectorWord, ∃ i, decode w = .ok i ∧ wellFormed i = true

/-- Decode and encode agree, for every operation with every operand its row admits (R54, R55, R56). -/
def Obligations.DecodeOfEncodeIsSame : Prop :=
  ∀ i : Instr, wellFormed i = true → decode (encode i) = .ok i

/-- The other direction (R54, R56): the word of a decoded operation is the word read, but for its don't-care bits. -/
def Obligations.EncodeOfDecodeKeepsCareBits : Prop :=
  ∀ (w : SelectorWord) (i : Instr), decode w = .ok i → encode i = w &&& careMask i

/-- A few words written out from the patterns of R56, and the P1 words of `95_test_vectors.md`. -/
def Obligations.KnownWordsDecode : Prop :=
  decode 0b1000000000000 = .ok .reset ∧ decode 0b1110110111011 = .ok .reset ∧
  decode 0b0111000000000 = .ok .reserved ∧ decode 0b0111110111011 = .ok .reserved ∧
  decode 0b0000000000000 = .ok .nop ∧ decode 0b0110011111111 = .ok .nop ∧
  decode 0x01BB = .ok .sync1Hit ∧ decode 0x01AA = .ok (.sync1Miss 0xAA) ∧
  decode 0x0366 = .ok .sync2Hit ∧ decode 0x03BB = .ok (.sync2Miss 0xBB) ∧
  decode 0x0515 = .ok (.type 0x15) ∧ decode 0x0702 = .ok (.len 0x02) ∧
  decode 0x09E8 = .ok (.payload 0xE8) ∧ decode 0x0BAB = .ok (.cklo 0xAB) ∧ decode 0x0DE9 = .ok (.ckhi 0xE9)

/-- From R58, D3: a number too wide for the selector word is refused, not truncated. -/
def Obligations.WideNumbersAreRefused : Prop :=
  ∀ n : Nat, 2 ^ 13 ≤ n → decodeNat n = .error .tooWide ∧ ∀ nbits, decodeTableWord nbits n = none

/-- From R54, R56, R57, R58 and R131: the masks of the map select what its column "selected when" says, for every
parser state and every sample of the pins; `in_byte` does not matter with `in_valid = 0`, nor either with `rst = 1`. -/
def Obligations.MapSelectsByStateAndInput : Prop :=
  ∀ (p : ParserState) (x : Pins), decode (selector p x) = .ok (selectedWhen p x.input)

/-! ### The step -/

/-- From R80: a step takes one sample and performs the operation its selector word selects.
A host that has presented everything offers no byte, which is the model's choice (log 8). -/
def Obligations.StepPerformsSelectedOperation : Prop :=
  (∀ (s : State) (i : Instr), decode (selector s.st s.pins) = .ok i → step s = exec i s.consume) ∧
  (∀ (s : State) (x : Pins) (rest : List Pins), s.inputs = x :: rest →
    s.pins = x ∧ s.consume = { s with inputs := rest }) ∧
  (∀ s : State, s.inputs = [] → s.pins.input = .noByte ∧ s.consume = s)

/-- The presented word is the word the coming step decodes, and what it decodes to is performed (R54, log 8). -/
def Obligations.PresentedWordIsPerformed : Prop :=
  ∀ (s : State) (nbits w : Nat), w < 2 ^ 13 →
    selector (s.withFetchWord nbits w).st (s.withFetchWord nbits w).pins = BitVec.ofNat 13 w ∧
    ∀ i, decodeTableWord nbits w = some i →
      step (s.withFetchWord nbits w) = exec i { s with st := parserStateOfWord (BitVec.ofNat 13 w) }

/-- R81: no byte available is a no-op with result `Incomplete`, in any of the seven states, and so is any number of
such steps. -/
def Obligations.NopWritesNothing : Prop :=
  (∀ s : State, s.st ≠ .reservedCode → s.pins.input = .noByte → s.fetch = .ok .nop) ∧
  (∀ s : State, ∃ t, exec .nop s = .next t ∧ t.st = s.st ∧ t.cursor = s.cursor ∧ t.rem = s.rem ∧
    t.cklo = s.cklo ∧ s.BufKept t ∧ t.cap = s.cap ∧ t.inputs = s.inputs ∧ t.out = ⟨.incomplete, .none⟩) ∧
  (∀ (s : State) (n : Nat) (rest : List Pins), s.st ≠ .reservedCode →
    s.inputs = List.replicate (n + 1) Input.noByte.pins ++ rest →
    runSteps (n + 1) s = .next { s with inputs := rest, out := .idle })

/-- R130: `rst = 1` selects RESET in every state, the reserved code among them, and RESET writes `st` and `cursor`
and nothing else. -/
def Obligations.ResetClearsStateAndCursorOnly : Prop :=
  (∀ s : State, s.pins.rst = true → s.fetch = .ok .reset) ∧
  (∀ s : State, ∃ t, exec .reset s = .next t ∧ t.st = .awaitingSync1 ∧ t.cursor = 0 ∧ t.rem = s.rem ∧
    t.cklo = s.cklo ∧ s.BufKept t ∧ t.cap = s.cap ∧ t.inputs = s.inputs ∧ t.out = ⟨.incomplete, .none⟩)

/-- R131: with `rst = 1` the step is the same whatever `in_valid` and `in_byte`, and no byte is stored. -/
def Obligations.ResetBeatsOfferedByte : Prop :=
  ∀ (s : State) (valid : Bool) (b : Byte) (rest : List Pins),
    step { s with inputs := ⟨true, valid, b⟩ :: rest } = step { s with inputs := Input.reset.pins :: rest } ∧
    ∃ t, step { s with inputs := ⟨true, valid, b⟩ :: rest } = .next t ∧ t.st = .awaitingSync1 ∧ t.cursor = 0 ∧
      t.rem = s.rem ∧ t.cklo = s.cklo ∧ s.BufKept t ∧ t.out = ⟨.incomplete, .none⟩

/-- From R57 (a) and D4: a step from code 7 is refused, RESET apart, and no step leads to code 7.
That the state can hold code 7 at all is the model's choice (log 7). -/
def Obligations.ReservedCodeIsRefused : Prop :=
  (∀ s : State, exec .reserved s = .refused .reservedStateCode) ∧
  (∀ s : State, s.st = .reservedCode → s.pins.input ≠ .reset → step s = .refused .reservedStateCode) ∧
  (∀ s : State, s.st = .reservedCode → s.pins.input = .reset →
    ∃ t, step s = .next t ∧ t.st = .awaitingSync1 ∧ t.cursor = 0) ∧
  (∀ s t : State, step s = .next t → t.st ≠ .reservedCode)

/-! ### The operations -/

/-- R82, with room for the byte (`CAP >= 4` gives it, the cursor being 0 in AwaitingSync1). -/
def Obligations.Sync1HitAppendsSync1 : Prop :=
  (∀ s : State, s.st = .awaitingSync1 → s.pins.input = .byte 0xBB → s.fetch = .ok .sync1Hit) ∧
  (∀ s : State, s.cursor < s.cap → ∃ t, exec .sync1Hit s = .next t ∧ s.Appended t 0xBB .awaitingSync2 s.rem) ∧
  (∀ s : State, s.cursor = s.cap → ∃ t, exec .sync1Hit s = .next t ∧ s.Recovered t .overflow)

/-- R83: the byte is stored nowhere, and nothing shows at the outputs. -/
def Obligations.Sync1MissDiscardsByte : Prop :=
  (∀ (s : State) (b : Byte), s.st = .awaitingSync1 → s.pins.input = .byte b → b ≠ 0xBB →
    s.fetch = .ok (.sync1Miss b)) ∧
  (∀ (s : State) (b : Byte), ∃ t, exec (.sync1Miss b) s = .next t ∧ s.Recovered t .none)

/-- R84, with room for the byte. -/
def Obligations.Sync2HitAppendsSync2 : Prop :=
  (∀ s : State, s.st = .awaitingSync2 → s.pins.input = .byte 0x66 → s.fetch = .ok .sync2Hit) ∧
  (∀ s : State, s.cursor < s.cap → ∃ t, exec .sync2Hit s = .next t ∧ s.Appended t 0x66 .awaitingType s.rem) ∧
  (∀ s : State, s.cursor = s.cap → ∃ t, exec .sync2Hit s = .next t ∧ s.Recovered t .overflow)

/-- R85 and R111: a byte that fails as Sync2 (`0xBB` too) is discarded, the search starts over, and nothing shows
at the outputs. -/
def Obligations.Sync2MissStartsOver : Prop :=
  (∀ (s : State) (b : Byte), s.st = .awaitingSync2 → s.pins.input = .byte b → b ≠ 0x66 →
    s.fetch = .ok (.sync2Miss b)) ∧
  (∀ (s : State) (b : Byte), ∃ t, exec (.sync2Miss b) s = .next t ∧ s.Recovered t .none)

/-- R86: any byte is the type, and is not examined. -/
def Obligations.TypeAppendsAnyByte : Prop :=
  (∀ (s : State) (b : Byte), s.st = .awaitingType → s.pins.input = .byte b → s.fetch = .ok (.type b)) ∧
  (∀ (s : State) (b : Byte), s.cursor < s.cap →
    ∃ t, exec (.type b) s = .next t ∧ s.Appended t b .awaitingLength s.rem) ∧
  (∀ (s : State) (b : Byte), s.cursor = s.cap → ∃ t, exec (.type b) s = .next t ∧ s.Recovered t .overflow)

/-- R87 and R52: the length byte is appended and loaded unchanged into the counter; 0 goes straight to the checksum. -/
def Obligations.LenLoadsCounter : Prop :=
  (∀ (s : State) (b : Byte), s.st = .awaitingLength → s.pins.input = .byte b → s.fetch = .ok (.len b)) ∧
  (∀ (s : State) (b : Byte), s.cursor < s.cap →
    ∃ t, exec (.len b) s = .next t ∧
      s.Appended t b (if b = 0 then .awaitingChecksumLow else .awaitingPayload) b) ∧
  (∀ (s : State) (b : Byte), s.cursor = s.cap → ∃ t, exec (.len b) s = .next t ∧ s.Recovered t .overflow)

/-- R88: a payload byte is appended and counted; the test uses the counter after the decrement; a full buffer
overflows with the byte discarded and the counter left alone. The counter is above 0, as the rule says it is. -/
def Obligations.PayloadCountsDown : Prop :=
  (∀ (s : State) (b : Byte), s.st = .awaitingPayload → s.pins.input = .byte b → s.fetch = .ok (.payload b)) ∧
  (∀ (s : State) (b : Byte), s.cursor < s.cap → s.rem ≠ 0 →
    ∃ t, exec (.payload b) s = .next t ∧ t.rem.toNat + 1 = s.rem.toNat ∧
      s.Appended t b (if s.rem = 1 then .awaitingChecksumLow else .awaitingPayload) t.rem) ∧
  (∀ (s : State) (b : Byte), s.cursor = s.cap → ∃ t, exec (.payload b) s = .next t ∧ s.Recovered t .overflow)

/-- The model's choice (log 5): with a counter at 0, which no rule meets, PAYLOAD still appends its byte and goes to
one of its two successors by the counter it leaves, which is a free value. -/
def Obligations.PayloadRunsAtZeroCounter : Prop :=
  ∀ (s : State) (b : Byte), s.cursor < s.cap → s.rem = 0 →
    ∃ t, exec (.payload b) s = .next t ∧
      s.Appended t b (if t.rem = 0 then .awaitingChecksumLow else .awaitingPayload) t.rem

/-- R89: the low checksum byte is kept in `cklo` and not appended. -/
def Obligations.CkloKeepsLowByte : Prop :=
  (∀ (s : State) (b : Byte), s.st = .awaitingChecksumLow → s.pins.input = .byte b → s.fetch = .ok (.cklo b)) ∧
  (∀ (s : State) (b : Byte), ∃ t, exec (.cklo b) s = .next t ∧ t.st = .awaitingChecksumHigh ∧ t.cklo = b ∧
    t.cursor = s.cursor ∧ t.rem = s.rem ∧ s.BufKept t ∧ t.cap = s.cap ∧ t.inputs = s.inputs ∧
    t.out = ⟨.incomplete, .none⟩)

/-- R90 and R112: the received checksum is compared with that of `buf[2 .. cursor-1]`; a match reports the cursor
as it stood, a mismatch shows `CrcMismatch`; either way the search starts over and nothing else is written. -/
def Obligations.CkhiAcceptsOrRejects : Prop :=
  (∀ (s : State) (b : Byte), s.st = .awaitingChecksumHigh → s.pins.input = .byte b → s.fetch = .ok (.ckhi b)) ∧
  (∀ (s : State) (b : Byte), s.cursor ≤ s.cap →
    (b.setWidth 16 <<< 8) ||| s.cklo.setWidth 16 = crc16 (s.bufRange 2 (s.cursor - 2)) →
    ∃ t, exec (.ckhi b) s = .next t ∧ t.out = ⟨.complete s.cursor, .none⟩ ∧ t.st = .awaitingSync1 ∧ t.cursor = 0 ∧
      t.rem = s.rem ∧ t.cklo = s.cklo ∧ s.BufKept t ∧ t.cap = s.cap ∧ t.inputs = s.inputs) ∧
  (∀ (s : State) (b : Byte), s.cursor ≤ s.cap →
    (b.setWidth 16 <<< 8) ||| s.cklo.setWidth 16 ≠ crc16 (s.bufRange 2 (s.cursor - 2)) →
    ∃ t, exec (.ckhi b) s = .next t ∧ s.Recovered t .crcMismatch)

/-- R53: the received checksum is the byte fed in AwaitingChecksumHigh over the byte fed in AwaitingChecksumLow. -/
def Obligations.ReceivedChecksumIsHighOverLow : Prop :=
  ∀ (s : State) (b : Byte),
    (s.receivedChecksum b).toNat = b.toNat * 256 + s.cklo.toNat ∧
    (s.receivedChecksum b).extractLsb' 0 8 = s.cklo ∧ (s.receivedChecksum b).extractLsb' 8 8 = b

/-- The model's choice for states R12 excludes (log 10): with the cursor beyond the capacity, every operation that
would reach a position that does not exist stops. -/
def Obligations.BeyondCapacityFaults : Prop :=
  ∀ (s : State) (b : Byte), s.cap < s.cursor →
    ∀ i ∈ [Instr.sync1Hit, .sync2Hit, .type b, .len b, .payload b, .ckhi b],
      exec i s = .fault .cursorBeyondCapacity

/-! ### Reset and the invariants -/

/-- From R22: what reset leaves where the spec gives a value. The values the spec leaves unspecified
(logs 1 to 3) are not stated. -/
def Obligations.ResetStartsSearch : Prop :=
  (∀ n, (State.resetOf n).st = .awaitingSync1 ∧ (State.resetOf n).cursor = 0 ∧
    (State.resetOf n).out = ⟨.incomplete, .none⟩ ∧ (State.resetOf n).cap = n ∧
    ∀ i, (State.resetOf n).buf.read i = none) ∧
  State.reset = State.resetOf State.reset.cap ∧ 4 ≤ State.reset.cap

/-- From D5 and R132: an Assembler is built with a capacity of at least 4, and a smaller one is refused. -/
def Obligations.ConstructionNeedsHeaderRoom : Prop :=
  (∀ n, 4 ≤ n → construct n = .next (State.resetOf n)) ∧
  (∀ n, n < 4 → construct n = .refused .capacityBelowHeader)

/-- From R21: reset meets the invariants, at every capacity the spec allows. -/
def Obligations.ResetMeetsInvariants : Prop :=
  (∀ n, 4 ≤ n → (State.resetOf n).Inv) ∧ State.reset.Inv

/-- From R21, R12, R13, R39: every step keeps the invariants. -/
def Obligations.StepKeepsInvariants : Prop :=
  ∀ s t : State, s.Inv → step s = .next t → t.Inv

/-- From R80, R110, R124: from a state that meets the invariants no input stops the machine, ever. -/
def Obligations.NothingIsFatal : Prop :=
  ∀ s : State, s.Inv → s.NeverStops

/-- From R30 and R31: from every state, a step keeps the buffer canonical and within the capacity. -/
def Obligations.StepKeepsBufferCanonical : Prop :=
  ∀ s t : State, step s = .next t →
    (s.buf.wf → t.buf.wf) ∧ ((∀ c ∈ s.buf, c.1 < s.cap) → ∀ c ∈ t.buf, c.1 < t.cap)

/-- From R31, R36, R38 and R18: a step stores at most one byte, at the cursor, and only when it advances the cursor;
the cursor moves by one, stays or is cleared; `CAP` stays; one sample is taken. -/
def Obligations.StepStoresOnlyAtCursor : Prop :=
  ∀ s t : State, step s = .next t →
    (∀ a, a ≠ s.cursor → t.buf.read a = s.buf.read a) ∧
    (t.cursor ≠ s.cursor + 1 → s.BufKept t) ∧
    (t.cursor = s.cursor ∨ t.cursor = s.cursor + 1 ∨ t.cursor = 0) ∧
    t.cap = s.cap ∧ t.inputs = s.inputs.tail

/-- R91: the successor of every parser state, and every way back to the search clears the cursor. -/
def Obligations.SuccessorTable : Prop :=
  ∀ s : State, s.Inv → ∃ t, step s = .next t ∧
    (t.st = .awaitingSync1 → t.cursor = 0) ∧
    (s.pins.input = .noByte → t.st = s.st) ∧
    (s.pins.input = .reset → t.st = .awaitingSync1) ∧
    ∀ b, s.pins.input = .byte b →
      (s.st = .awaitingSync1 → t.st = if b = 0xBB then .awaitingSync2 else .awaitingSync1) ∧
      (s.st = .awaitingSync2 → t.st = if b = 0x66 then .awaitingType else .awaitingSync1) ∧
      (s.st = .awaitingType → t.st = .awaitingLength) ∧
      (s.st = .awaitingLength → t.st = if b = 0x00 then .awaitingChecksumLow else .awaitingPayload) ∧
      (s.st = .awaitingPayload → s.cursor = s.cap → t.st = .awaitingSync1) ∧
      (s.st = .awaitingPayload → s.cursor < s.cap → s.rem = 1 → t.st = .awaitingChecksumLow) ∧
      (s.st = .awaitingPayload → s.cursor < s.cap → 1 < s.rem.toNat → t.st = .awaitingPayload) ∧
      (s.st = .awaitingChecksumLow → t.st = .awaitingChecksumHigh) ∧
      (s.st = .awaitingChecksumHigh → t.st = .awaitingSync1)

/-- From R90 and R94 (a): `Complete` comes from CKHI alone, exactly on a match, and reports the cursor. -/
def Obligations.CompleteOnlyFromMatch : Prop :=
  ∀ (s t : State) (n : Nat), step s = .next t →
    (t.out.result = .complete n ↔
      s.st = .awaitingChecksumHigh ∧ n = s.cursor ∧
        ∃ b, s.pins.input = .byte b ∧ s.receivedChecksum b = s.computedChecksum)

/-- R95 and R93: the length reported is `4 + Length`, between 4 and `min(CAP, 259)`. -/
def Obligations.FrameLengthCountsHeaderAndPayload : Prop :=
  ∀ (s t : State) (n : Nat), s.Inv → step s = .next t → t.out.result = .complete n →
    n = 4 + (s.memRead 3).toNat ∧ 4 ≤ n ∧ n ≤ s.cap ∧ n ≤ 259

/-- From R110, R112, R113, R116: each diagnostic comes exactly from its cause, with the recovery all conditions
share, and never with `Complete`. -/
def Obligations.DiagnosticsTellTheirCause : Prop :=
  ∀ s t : State, step s = .next t →
    (t.out.diag = .crcMismatch ↔
      s.st = .awaitingChecksumHigh ∧ ∃ b, s.pins.input = .byte b ∧ s.receivedChecksum b ≠ s.computedChecksum) ∧
    (t.out.diag = .overflow ↔
      s.cursor = s.cap ∧ ∃ b, s.pins.input = .byte b ∧
        (s.st = .awaitingSync1 ∧ b = 0xBB ∨ s.st = .awaitingSync2 ∧ b = 0x66 ∨ s.st = .awaitingType ∨
          s.st = .awaitingLength ∨ s.st = .awaitingPayload)) ∧
    (t.out.diag ≠ .none → s.consume.Recovered t t.out.diag)

/-- From R113, R5 and R39: only PAYLOAD overflows, and with `CAP >= 259` nothing does. -/
def Obligations.OverflowNeedsSmallBuffer : Prop :=
  ∀ s t : State, s.Inv → step s = .next t → t.out.diag = .overflow →
    s.st = .awaitingPayload ∧ s.cap < 259 ∧ s.cap < 4 + (s.memRead 3).toNat

/-- From R21, R32 and R73: the checksum of CKHI reads written positions only, at least Type and Length and at most
257 bytes. -/
def Obligations.ChecksumReadsOnlyWritten : Prop :=
  ∀ s : State, s.Inv → s.st = .awaitingChecksumHigh →
    (∀ i, 2 ≤ i → i < s.cursor → ∃ b, s.buf.read i = some b) ∧
    (∃ payload, s.checksumDomain = s.memRead 2 :: s.memRead 3 :: payload ∧
      payload.length = (s.memRead 3).toNat ∧
      ∀ i (h : i < payload.length), payload[i] = s.memRead (4 + i))

/-- From R19 (b): what stands in `rem` and `cklo` where no rule reads it before it is written changes no output and
no other state, in this step or any later one. -/
def Obligations.StaleRegistersInfluenceNothing : Prop :=
  ∀ (k : Nat) (s s' t : State), s.SameButStale t → runSteps k s = .next s' →
    ∃ t', runSteps k t = .next t' ∧ s'.SameButStale t'

/-- From R42: the buffer's bytes steer nothing but the outputs of CKHI. -/
def Obligations.BufferSteersOnlyChecksum : Prop :=
  ∀ (s s' : State) (m : Memory), step s = .next s' →
    ∃ t', step { s with buf := m } = .next t' ∧ t'.st = s'.st ∧ t'.cursor = s'.cursor ∧ t'.rem = s'.rem ∧
      t'.cklo = s'.cklo ∧ t'.inputs = s'.inputs ∧ (s.st ≠ .awaitingChecksumHigh → t'.out = s'.out)

/-! ### Whole frames -/

/-- From R94 (a) to (c), R50, R37 and R95: a valid frame that fits, fed to a searching parser, gives `Complete` once,
at its last byte, and not before; the accepted bytes then stand in the buffer. -/
def Obligations.ValidFrameCompletesOnce : Prop :=
  ∀ (s : State) (type : Byte) (payload : List Byte) (rest : List Pins),
    s.st = .awaitingSync1 → s.cursor = 0 → payload.length ≤ 255 → 4 + payload.length ≤ s.cap →
    s.inputs = byteStream (frame type payload) ++ rest →
    (∀ k, 0 < k → k < 6 + payload.length → ∃ t, runSteps k s = .next t ∧ t.out = ⟨.incomplete, .none⟩) ∧
    (∃ t, runSteps (5 + payload.length) s = .next t ∧ t.st = .awaitingChecksumHigh) ∧
    ∃ t, runSteps (6 + payload.length) s = .next t ∧ t.out = ⟨.complete (4 + payload.length), .none⟩ ∧
      t.st = .awaitingSync1 ∧ t.cursor = 0 ∧ t.inputs = rest ∧
      ∀ i < 4 + payload.length, t.buf.read i = (0xBB :: 0x66 :: frameDomain type payload)[i]?

/-- From R94 (d) and R83: bytes other than `0xBB` leave a searching parser searching, and the buffer untouched. -/
def Obligations.GarbageLeavesSearch : Prop :=
  ∀ (s : State) (garbage : List Byte) (rest : List Pins),
    s.st = .awaitingSync1 → s.cursor = 0 → garbage ≠ [] → (∀ b ∈ garbage, b ≠ 0xBB) →
    s.inputs = byteStream garbage ++ rest →
    runSteps garbage.length s = .next { s with inputs := rest, out := .idle }

/-- From R94 (e): a frame with the Type or one payload byte changed, but the checksum bytes of the original, is
rejected at its last byte, and the parser searches again. -/
def Obligations.OneChangedByteIsRejected : Prop :=
  ∀ (s : State) (type type' : Byte) (payload payload' : List Byte) (rest : List Pins),
    s.st = .awaitingSync1 → s.cursor = 0 → payload.length ≤ 255 → 4 + payload.length ≤ s.cap →
    (type' ≠ type ∧ payload' = payload ∨
      type' = type ∧ ∃ before a b after, a ≠ b ∧ payload = before ++ a :: after ∧ payload' = before ++ b :: after) →
    s.inputs = byteStream (frameWith type' payload' ((crc16 (frameDomain type payload)).extractLsb' 0 8)
      ((crc16 (frameDomain type payload)).extractLsb' 8 8)) ++ rest →
    (∀ k, 0 < k → k < 6 + payload.length → ∃ t, runSteps k s = .next t ∧ t.out = ⟨.incomplete, .none⟩) ∧
    ∃ t, runSteps (6 + payload.length) s = .next t ∧ t.out = ⟨.incomplete, .crcMismatch⟩ ∧
      t.st = .awaitingSync1 ∧ t.cursor = 0 ∧ t.inputs = rest

/-- From R39 and R113: a frame too long for the buffer overflows at the byte of wire offset `CAP`, which is discarded,
and not before. -/
def Obligations.LongFrameOverflowsAtCapacity : Prop :=
  ∀ (s : State) (type low high : Byte) (payload : List Byte) (rest : List Pins),
    s.st = .awaitingSync1 → s.cursor = 0 → payload.length ≤ 255 → 4 ≤ s.cap → s.cap < 4 + payload.length →
    s.inputs = byteStream (frameWith type payload low high) ++ rest →
    (∀ k, 0 < k → k ≤ s.cap → ∃ t, runSteps k s = .next t ∧ t.out = ⟨.incomplete, .none⟩) ∧
    ∃ t, runSteps (s.cap + 1) s = .next t ∧ t.out = ⟨.incomplete, .overflow⟩ ∧ t.st = .awaitingSync1 ∧
      t.cursor = 0 ∧ t.rem.toNat + s.cap = 4 + payload.length ∧
      ∀ i < s.cap, t.buf.read i = (0xBB :: 0x66 :: frameDomain type payload)[i]?

/-- From R133: from a cleared cursor, position `i` keeps its byte through the first `i` further bytes, whatever they
are and however many steps without a byte or resets stand between them. -/
def Obligations.CompletedFrameSurvives : Prop :=
  ∀ (s t : State) (k i : Nat), s.cursor = 0 → runSteps k s = .next t → s.bytesWithin k ≤ i →
    t.buf.read i = s.buf.read i

/-- From R133: positions 0 and 1, once the sync bytes stand there, keep them through every step. -/
def Obligations.SyncPositionsKeepSyncBytes : Prop :=
  ∀ (s t : State) (k : Nat), s.Inv → s.syncHeld → runSteps k s = .next t → t.syncHeld

/-! ### The host interface -/

/-- R18: the pins that carry a step's outputs; `diag = 3` is never shown (R57). -/
def Obligations.PinsCarryOutputs : Prop :=
  (∀ (s : State) (n : Nat), s.out.result = .complete n → s.frameComplete = 1 ∧ s.frameLength = n) ∧
  (∀ s : State, s.out.result = .incomplete → s.frameComplete = 0 ∧ s.frameLength = 0) ∧
  (∀ s : State, (s.diagPins = 0 ↔ s.out.diag = .none) ∧ (s.diagPins = 1 ↔ s.out.diag = .crcMismatch) ∧
    (s.diagPins = 2 ↔ s.out.diag = .overflow) ∧ s.diagPins ≠ 3)

/-- Below `CAP` the read port shows the byte written. R33 promises it for a position written since reset; that a
position written before a RESET of a running Assembler still shows its byte is the model's reading (log 14), from R130
(`buf` unchanged), R19 (a) and program P8. What the port shows elsewhere is a free value (logs 3, 4). -/
def Obligations.ReadPortShowsWrittenBytes : Prop :=
  ∀ (s : State) (a : Nat) (b : Byte), a < s.cap → s.buf.read a = some b → s.rdData a = b

/-- R100 and R101: a type-`0x15` frame with at least two payload bytes decodes to its first two, low byte first;
anything else to nothing. -/
def Obligations.ReadingIsFirstTwoPayloadBytes : Prop :=
  (∀ (buf : Nat → Byte) (n : Nat), buf 2 = 0x15 → 6 ≤ n →
    ∃ r, decodeReading buf n = some r ∧ r.toNat = (buf 5).toNat * 256 + (buf 4).toNat) ∧
  (∀ (buf : Nat → Byte) (n : Nat), n < 6 → decodeReading buf n = none) ∧
  (∀ (buf : Nat → Byte) (n : Nat), buf 2 ≠ 0x15 → decodeReading buf n = none)

/-- From R102: the host decodes nothing after `Incomplete`, and the completed frame after `Complete`. -/
def Obligations.ReadingOnlyOfCompleteFrames : Prop :=
  ∀ s : State, (s.out.result = .incomplete → s.reading = none) ∧
    ∀ n, s.out.result = .complete n → s.reading = decodeReading s.rdData n

/-- From R5 and D6: `CW` bits hold every value of the cursor, and no fewer do. -/
def Obligations.CursorWidthIsLeast : Prop :=
  ∀ cap : Nat, (∀ n ≤ cap, n < 2 ^ Config.cw cap) ∧ ∀ w, cap < 2 ^ w → Config.cw cap ≤ w
end

