-- ==== Sys2Proof/Laws/Checksum.lean ====
section
/-! SUPPORT. Small facts of the Checksum Engine. -/

namespace Sys2Proof.Machine

@[simp] theorem crcShift_zero (r : Word16) : crcShift 0 r = r := rfl

theorem crcShift_succ (n : Nat) (r : Word16) : crcShift (n + 1) r = crcShift n (crcBit r) := rfl

@[simp] theorem crc16_nil : crc16 [] = Config.crcInit := rfl

/-- The bit shifted out can be told from the bit on top afterwards. -/
theorem getMsbD_crcBit (r : Word16) : (crcBit r).getLsbD 15 = r.getLsbD 0 := by
  unfold crcBit
  split <;> rename_i h <;> simp_all

end Sys2Proof.Machine
end

