-- ==== Sys2Proof/Laws/Memory.lean ====
section
/-! SUPPORT. The laws of the Frame Buffer: reads after writes, and the canonical form. -/

namespace Sys2Proof.Machine

@[simp] theorem Memory.read_nil (i : Nat) : Memory.read [] i = none := rfl

theorem Memory.read_cons (k : Nat) (v : Byte) (m : Memory) (i : Nat) :
    Memory.read ((k, v) :: m) i = if i = k then some v else Memory.read m i := rfl

/-- The position written reads as the byte written, and every other position as before. -/
theorem Memory.read_write (m : Memory) (i : Nat) (b : Byte) (j : Nat) :
    (m.write i b).read j = if j = i then some b else m.read j := by
  induction m with
  | nil => simp [Memory.write, Memory.read_cons]
  | cons c m ih =>
    obtain ⟨k, v⟩ := c
    by_cases hlt : i < k
    · simp [Memory.write, hlt, Memory.read_cons]
    · by_cases heq : i = k
      · subst heq
        by_cases hj : j = i <;> simp [Memory.write, Memory.read_cons, hj]
      · by_cases hj : j = k
        · subst hj
          simp [Memory.write, hlt, heq, Memory.read_cons, Ne.symm heq]
        · simp [Memory.write, hlt, heq, Memory.read_cons, hj, ih]

@[simp] theorem Memory.read_write_same (m : Memory) (i : Nat) (b : Byte) :
    (m.write i b).read i = some b := by
  simp [Memory.read_write]

theorem Memory.read_write_other (m : Memory) {i j : Nat} (b : Byte) (h : j ≠ i) :
    (m.write i b).read j = m.read j := by
  simp [Memory.read_write, h]

/-- A write lists the position written and positions listed before, no others. -/
theorem Memory.mem_write {m : Memory} {i : Nat} {b : Byte} {c : Host.Cell} (h : c ∈ m.write i b) :
    c = (i, b) ∨ c ∈ m := by
  induction m with
  | nil => simpa [Memory.write] using h
  | cons d m ih =>
    obtain ⟨k, v⟩ := d
    by_cases hlt : i < k
    · simpa [Memory.write, hlt] using h
    · by_cases heq : i = k
      · subst heq
        rcases List.mem_cons.1 (by simpa [Memory.write] using h : c ∈ (i, b) :: m) with h | h
        · exact .inl h
        · exact .inr (List.mem_cons_of_mem _ h)
      · rcases List.mem_cons.1 (by simpa [Memory.write, hlt, heq] using h : c ∈ (k, v) :: Memory.write m i b) with h | h
        · exact .inr (by simp [h])
        · exact (ih h).imp id (List.mem_cons_of_mem _)

/-- A write keeps the canonical form. -/
theorem Memory.write_wf {m : Memory} (h : m.wf) (i : Nat) (b : Byte) : (m.write i b).wf := by
  induction m with
  | nil => simp [Memory.write]
  | cons d m ih =>
    obtain ⟨k, v⟩ := d
    rw [Memory.wf, List.pairwise_cons] at h
    obtain ⟨hk, hm⟩ := h
    by_cases hlt : i < k
    · simp only [Memory.write, hlt, if_true, Memory.wf, List.pairwise_cons]
      refine ⟨fun c hc => ?_, hk, hm⟩
      rcases List.mem_cons.1 hc with rfl | hc
      · exact hlt
      · exact hlt.trans (hk c hc)
    · by_cases heq : i = k
      · subst heq
        simp only [Memory.write, lt_irrefl, if_false, if_true, Memory.wf, List.pairwise_cons]
        exact ⟨hk, hm⟩
      · simp only [Memory.write, hlt, heq, if_false, Memory.wf, List.pairwise_cons]
        refine ⟨fun c hc => ?_, ih hm⟩
        rcases Memory.mem_write hc with rfl | hc
        · exact lt_of_le_of_ne (Nat.le_of_not_lt hlt) (Ne.symm heq)
        · exact hk c hc

/-- A position below every listed one has not been written. -/
theorem Memory.read_eq_none_of_lt {m : Memory} {i : Nat} (h : ∀ c ∈ m, i < c.1) : m.read i = none := by
  induction m with
  | nil => rfl
  | cons d m ih =>
    obtain ⟨k, v⟩ := d
    have hk : i < k := h (k, v) (by simp)
    rw [Memory.read_cons, if_neg (Nat.ne_of_lt hk)]
    exact ih fun c hc => h c (List.mem_cons_of_mem _ hc)

/-- Equal reads at every position make canonical memories equal data. -/
theorem Memory.ext_of_wf {m n : Memory} (hm : m.wf) (hn : n.wf) (h : ∀ i, m.read i = n.read i) : m = n := by
  induction m generalizing n with
  | nil =>
    cases n with
    | nil => rfl
    | cons d n =>
      obtain ⟨k, v⟩ := d
      have := h k
      simp [Memory.read_cons] at this
  | cons c m ih =>
    obtain ⟨j, u⟩ := c
    rw [Memory.wf, List.pairwise_cons] at hm
    cases n with
    | nil =>
      have := h j
      simp [Memory.read_cons] at this
    | cons d n =>
      obtain ⟨k, v⟩ := d
      rw [Memory.wf, List.pairwise_cons] at hn
      have hjk : j = k := by
        by_contra hne
        rcases Nat.lt_or_gt_of_ne hne with hlt | hgt
        · have hj := h j
          rw [Memory.read_cons, if_pos rfl, Memory.read_cons, if_neg hne,
            Memory.read_eq_none_of_lt fun c hc => hlt.trans (hn.1 c hc)] at hj
          cases hj
        · have hk := h k
          rw [Memory.read_cons, if_neg (Ne.symm hne), Memory.read_cons, if_pos rfl,
            Memory.read_eq_none_of_lt fun c hc => Nat.lt_trans hgt (hm.1 c hc)] at hk
          cases hk
      subst hjk
      have huv : u = v := by
        have := h j
        simpa [Memory.read_cons] using this
      subst huv
      have htail : m = n := by
        refine ih hm.2 hn.2 fun i => ?_
        by_cases hi : i = j
        · subst hi
          rw [Memory.read_eq_none_of_lt hm.1, Memory.read_eq_none_of_lt hn.1]
        · have := h i
          simpa [Memory.read_cons, hi] using this
      rw [htail]

end Sys2Proof.Machine
end

