-- ==== Sys2Proof/Laws/State.lean ====
section
/-! SUPPORT. One lemma for each field under each update of the state, true by unfolding the update. -/

namespace Sys2Proof.Machine

@[simp] theorem State.goto_cap (s : State) (p : ParserState) : (s.goto p).cap = s.cap := rfl
@[simp] theorem State.goto_st (s : State) (p : ParserState) : (s.goto p).st = p := rfl
@[simp] theorem State.goto_cursor (s : State) (p : ParserState) : (s.goto p).cursor = s.cursor := rfl
@[simp] theorem State.goto_rem (s : State) (p : ParserState) : (s.goto p).rem = s.rem := rfl
@[simp] theorem State.goto_cklo (s : State) (p : ParserState) : (s.goto p).cklo = s.cklo := rfl
@[simp] theorem State.goto_buf (s : State) (p : ParserState) : (s.goto p).buf = s.buf := rfl
@[simp] theorem State.goto_inputs (s : State) (p : ParserState) : (s.goto p).inputs = s.inputs := rfl
@[simp] theorem State.goto_out (s : State) (p : ParserState) : (s.goto p).out = s.out := rfl

@[simp] theorem State.setCursor_cap (s : State) (n : Nat) : (s.setCursor n).cap = s.cap := rfl
@[simp] theorem State.setCursor_st (s : State) (n : Nat) : (s.setCursor n).st = s.st := rfl
@[simp] theorem State.setCursor_cursor (s : State) (n : Nat) : (s.setCursor n).cursor = n := rfl
@[simp] theorem State.setCursor_rem (s : State) (n : Nat) : (s.setCursor n).rem = s.rem := rfl
@[simp] theorem State.setCursor_cklo (s : State) (n : Nat) : (s.setCursor n).cklo = s.cklo := rfl
@[simp] theorem State.setCursor_buf (s : State) (n : Nat) : (s.setCursor n).buf = s.buf := rfl
@[simp] theorem State.setCursor_inputs (s : State) (n : Nat) : (s.setCursor n).inputs = s.inputs := rfl
@[simp] theorem State.setCursor_out (s : State) (n : Nat) : (s.setCursor n).out = s.out := rfl

@[simp] theorem State.setRem_cap (s : State) (b : Byte) : (s.setRem b).cap = s.cap := rfl
@[simp] theorem State.setRem_st (s : State) (b : Byte) : (s.setRem b).st = s.st := rfl
@[simp] theorem State.setRem_cursor (s : State) (b : Byte) : (s.setRem b).cursor = s.cursor := rfl
@[simp] theorem State.setRem_rem (s : State) (b : Byte) : (s.setRem b).rem = b := rfl
@[simp] theorem State.setRem_cklo (s : State) (b : Byte) : (s.setRem b).cklo = s.cklo := rfl
@[simp] theorem State.setRem_buf (s : State) (b : Byte) : (s.setRem b).buf = s.buf := rfl
@[simp] theorem State.setRem_inputs (s : State) (b : Byte) : (s.setRem b).inputs = s.inputs := rfl
@[simp] theorem State.setRem_out (s : State) (b : Byte) : (s.setRem b).out = s.out := rfl

@[simp] theorem State.setCklo_cap (s : State) (b : Byte) : (s.setCklo b).cap = s.cap := rfl
@[simp] theorem State.setCklo_st (s : State) (b : Byte) : (s.setCklo b).st = s.st := rfl
@[simp] theorem State.setCklo_cursor (s : State) (b : Byte) : (s.setCklo b).cursor = s.cursor := rfl
@[simp] theorem State.setCklo_rem (s : State) (b : Byte) : (s.setCklo b).rem = s.rem := rfl
@[simp] theorem State.setCklo_cklo (s : State) (b : Byte) : (s.setCklo b).cklo = b := rfl
@[simp] theorem State.setCklo_buf (s : State) (b : Byte) : (s.setCklo b).buf = s.buf := rfl
@[simp] theorem State.setCklo_inputs (s : State) (b : Byte) : (s.setCklo b).inputs = s.inputs := rfl
@[simp] theorem State.setCklo_out (s : State) (b : Byte) : (s.setCklo b).out = s.out := rfl

@[simp] theorem State.emit_cap (s : State) (o : Output) : (s.emit o).cap = s.cap := rfl
@[simp] theorem State.emit_st (s : State) (o : Output) : (s.emit o).st = s.st := rfl
@[simp] theorem State.emit_cursor (s : State) (o : Output) : (s.emit o).cursor = s.cursor := rfl
@[simp] theorem State.emit_rem (s : State) (o : Output) : (s.emit o).rem = s.rem := rfl
@[simp] theorem State.emit_cklo (s : State) (o : Output) : (s.emit o).cklo = s.cklo := rfl
@[simp] theorem State.emit_buf (s : State) (o : Output) : (s.emit o).buf = s.buf := rfl
@[simp] theorem State.emit_inputs (s : State) (o : Output) : (s.emit o).inputs = s.inputs := rfl
@[simp] theorem State.emit_out (s : State) (o : Output) : (s.emit o).out = o := rfl

@[simp] theorem State.memWrite_cap (s : State) (i : Nat) (b : Byte) : (s.memWrite i b).cap = s.cap := rfl
@[simp] theorem State.memWrite_st (s : State) (i : Nat) (b : Byte) : (s.memWrite i b).st = s.st := rfl
@[simp] theorem State.memWrite_cursor (s : State) (i : Nat) (b : Byte) : (s.memWrite i b).cursor = s.cursor := rfl
@[simp] theorem State.memWrite_rem (s : State) (i : Nat) (b : Byte) : (s.memWrite i b).rem = s.rem := rfl
@[simp] theorem State.memWrite_cklo (s : State) (i : Nat) (b : Byte) : (s.memWrite i b).cklo = s.cklo := rfl
@[simp] theorem State.memWrite_buf (s : State) (i : Nat) (b : Byte) : (s.memWrite i b).buf = s.buf.write i b := rfl
@[simp] theorem State.memWrite_inputs (s : State) (i : Nat) (b : Byte) : (s.memWrite i b).inputs = s.inputs := rfl
@[simp] theorem State.memWrite_out (s : State) (i : Nat) (b : Byte) : (s.memWrite i b).out = s.out := rfl

@[simp] theorem State.appendByte_cap (s : State) (b : Byte) : (s.appendByte b).cap = s.cap := rfl
@[simp] theorem State.appendByte_st (s : State) (b : Byte) : (s.appendByte b).st = s.st := rfl
@[simp] theorem State.appendByte_cursor (s : State) (b : Byte) : (s.appendByte b).cursor = s.cursor + 1 := rfl
@[simp] theorem State.appendByte_rem (s : State) (b : Byte) : (s.appendByte b).rem = s.rem := rfl
@[simp] theorem State.appendByte_cklo (s : State) (b : Byte) : (s.appendByte b).cklo = s.cklo := rfl
@[simp] theorem State.appendByte_buf (s : State) (b : Byte) : (s.appendByte b).buf = s.buf.write s.cursor b := rfl
@[simp] theorem State.appendByte_inputs (s : State) (b : Byte) : (s.appendByte b).inputs = s.inputs := rfl
@[simp] theorem State.appendByte_out (s : State) (b : Byte) : (s.appendByte b).out = .idle := rfl

@[simp] theorem State.consume_cap (s : State) : (s.consume).cap = s.cap := rfl
@[simp] theorem State.consume_st (s : State) : (s.consume).st = s.st := rfl
@[simp] theorem State.consume_cursor (s : State) : (s.consume).cursor = s.cursor := rfl
@[simp] theorem State.consume_rem (s : State) : (s.consume).rem = s.rem := rfl
@[simp] theorem State.consume_cklo (s : State) : (s.consume).cklo = s.cklo := rfl
@[simp] theorem State.consume_buf (s : State) : (s.consume).buf = s.buf := rfl
@[simp] theorem State.consume_inputs (s : State) : (s.consume).inputs = s.inputs.tail := rfl
@[simp] theorem State.consume_out (s : State) : (s.consume).out = s.out := rfl

@[simp] theorem State.accept_cap (s : State) : (s.accept).cap = s.cap := rfl
@[simp] theorem State.accept_st (s : State) : (s.accept).st = .awaitingSync1 := rfl
@[simp] theorem State.accept_cursor (s : State) : (s.accept).cursor = 0 := rfl
@[simp] theorem State.accept_rem (s : State) : (s.accept).rem = s.rem := rfl
@[simp] theorem State.accept_cklo (s : State) : (s.accept).cklo = s.cklo := rfl
@[simp] theorem State.accept_buf (s : State) : (s.accept).buf = s.buf := rfl
@[simp] theorem State.accept_inputs (s : State) : (s.accept).inputs = s.inputs := rfl
@[simp] theorem State.accept_out (s : State) : (s.accept).out = ⟨.complete s.cursor, .none⟩ := rfl

@[simp] theorem raise_cap (c : Condition) (s : State) : (raise c s).cap = s.cap := rfl
@[simp] theorem raise_st (c : Condition) (s : State) : (raise c s).st = .awaitingSync1 := rfl
@[simp] theorem raise_cursor (c : Condition) (s : State) : (raise c s).cursor = 0 := rfl
@[simp] theorem raise_rem (c : Condition) (s : State) : (raise c s).rem = s.rem := rfl
@[simp] theorem raise_cklo (c : Condition) (s : State) : (raise c s).cklo = s.cklo := rfl
@[simp] theorem raise_buf (c : Condition) (s : State) : (raise c s).buf = s.buf := rfl
@[simp] theorem raise_inputs (c : Condition) (s : State) : (raise c s).inputs = s.inputs := rfl
@[simp] theorem raise_out (c : Condition) (s : State) : (raise c s).out = ⟨.incomplete, c.diag⟩ := rfl

@[simp] theorem State.resetOf_cap (n : Nat) : (State.resetOf n).cap = n := rfl
@[simp] theorem State.resetOf_st (n : Nat) : (State.resetOf n).st = .awaitingSync1 := rfl
@[simp] theorem State.resetOf_cursor (n : Nat) : (State.resetOf n).cursor = 0 := rfl
@[simp] theorem State.resetOf_rem (n : Nat) : (State.resetOf n).rem = Config.resetRem := rfl
@[simp] theorem State.resetOf_cklo (n : Nat) : (State.resetOf n).cklo = Config.resetCklo := rfl
@[simp] theorem State.resetOf_buf (n : Nat) : (State.resetOf n).buf = [] := rfl
@[simp] theorem State.resetOf_inputs (n : Nat) : (State.resetOf n).inputs = [] := rfl
@[simp] theorem State.resetOf_out (n : Nat) : (State.resetOf n).out = .idle := rfl

@[simp] theorem State.present_cap (s : State) (w : SelectorWord) : (s.present w).cap = s.cap := rfl
@[simp] theorem State.present_st (s : State) (w : SelectorWord) : (s.present w).st = parserStateOfWord w := rfl
@[simp] theorem State.present_cursor (s : State) (w : SelectorWord) : (s.present w).cursor = s.cursor := rfl
@[simp] theorem State.present_rem (s : State) (w : SelectorWord) : (s.present w).rem = s.rem := rfl
@[simp] theorem State.present_cklo (s : State) (w : SelectorWord) : (s.present w).cklo = s.cklo := rfl
@[simp] theorem State.present_buf (s : State) (w : SelectorWord) : (s.present w).buf = s.buf := rfl
@[simp] theorem State.present_inputs (s : State) (w : SelectorWord) : (s.present w).inputs = pinsOfWord w :: s.inputs := rfl
@[simp] theorem State.present_out (s : State) (w : SelectorWord) : (s.present w).out = s.out := rfl

end Sys2Proof.Machine
end

