-- ==== Sys2Proof/Laws/Ops.lean ====
section
/-! SUPPORT. What each shared operation does, said once. -/

namespace Sys2Proof.Machine

/-- `Append` on a full buffer raises `BufferOverflow`, whatever the rest of the operation. -/
theorem appendThen_full {s : State} (h : s.cursor = s.cap) (b : Byte) (rest : State → State) :
    appendThen b rest s = .next (raise .bufferOverflow s) := by
  simp [appendThen, State.bufferFull, h]

/-- `Append` with room stores the byte and goes on. -/
theorem appendThen_room {s : State} (h : s.cursor < s.cap) (b : Byte) (rest : State → State) :
    appendThen b rest s = .next (rest (s.appendByte b)) := by
  simp [appendThen, State.bufferFull, h, Nat.ne_of_lt h]

/-- `Append` beyond the capacity faults. -/
theorem appendThen_beyond {s : State} (h : s.cap < s.cursor) (b : Byte) (rest : State → State) :
    appendThen b rest s = .fault .cursorBeyondCapacity := by
  simp [appendThen, State.bufferFull, Nat.ne_of_gt h, Nat.not_lt.2 h.le]

/-- Everything `Append` can do when it gives a next state. -/
theorem appendThen_next {s t : State} {b : Byte} {rest : State → State} (h : appendThen b rest s = .next t) :
    (s.cursor = s.cap ∧ t = raise .bufferOverflow s) ∨ (s.cursor < s.cap ∧ t = rest (s.appendByte b)) := by
  rcases Nat.lt_trichotomy s.cursor s.cap with hlt | heq | hgt
  · rw [appendThen_room hlt] at h
    exact .inr ⟨hlt, (Host.Outcome.next.inj h).symm⟩
  · rw [appendThen_full heq] at h
    exact .inl ⟨heq, (Host.Outcome.next.inj h).symm⟩
  · rw [appendThen_beyond hgt] at h
    cases h

/-- Everything CKHI can do when it gives a next state. -/
theorem execCkhi_next {s t : State} {b : Byte} (h : execCkhi b s = .next t) :
    s.cursor ≤ s.cap ∧
      ((s.receivedChecksum b = s.computedChecksum ∧ t = s.accept) ∨
        (s.receivedChecksum b ≠ s.computedChecksum ∧ t = raise .checksumMismatch s)) := by
  unfold execCkhi at h
  split at h
  · rename_i hle
    refine ⟨hle, ?_⟩
    have ht := (Host.Outcome.next.inj h).symm
    by_cases hm : s.receivedChecksum b = s.computedChecksum
    · exact .inl ⟨hm, by simpa [checksumMatches, hm] using ht⟩
    · exact .inr ⟨hm, by simpa [checksumMatches, hm] using ht⟩
  · cases h

@[simp] theorem decrement_of_ne_zero {r : Byte} (h : r ≠ 0) : decrement r = r - 1 := if_neg h

theorem payloadPending_iff (r : Byte) : payloadPending r = true ↔ r ≠ 0 := by
  simp [payloadPending]

/-- Where the counter leads when payload is still to come. -/
theorem stateAfterCount_of_ne_zero {r : Byte} (h : r ≠ 0) : stateAfterCount r = .awaitingPayload := by
  rw [stateAfterCount, if_pos ((payloadPending_iff r).2 h)]

/-- Where the counter leads when no payload is left. -/
@[simp] theorem stateAfterCount_zero : stateAfterCount 0 = .awaitingChecksumLow := by
  simp [stateAfterCount, payloadPending]

/-- A written position reads as its byte. -/
theorem State.memRead_of_read {s : State} {i : Nat} {b : Byte} (h : s.buf.read i = some b) :
    s.memRead i = b := by
  simp [State.memRead, h]

/-- `MemRead` after `Append`. -/
theorem State.memRead_appendByte (s : State) (b : Byte) (i : Nat) :
    (s.appendByte b).memRead i = if i = s.cursor then b else s.memRead i := by
  by_cases h : i = s.cursor <;> simp [State.memRead, Memory.read_write, h]

/-- `MemRead` sees the buffer only. -/
theorem State.memRead_congr {s t : State} (h : s.buf = t.buf) : s.memRead = t.memRead := by
  funext i
  simp [State.memRead, h]

/-- A range of the buffer has as many bytes as asked for. -/
@[simp] theorem State.length_bufRange (s : State) (first count : Nat) :
    (s.bufRange first count).length = count := by
  simp [State.bufRange]

/-- A range of the buffer, one byte longer. -/
theorem State.bufRange_succ (s : State) (first count : Nat) :
    s.bufRange first (count + 1) = s.bufRange first count ++ [s.memRead (first + count)] := by
  simp [State.bufRange, List.range'_concat]

/-- Two states that read alike over a range have the same range. -/
theorem State.bufRange_congr {s t : State} {first count : Nat}
    (h : ∀ i, first ≤ i → i < first + count → s.memRead i = t.memRead i) :
    s.bufRange first count = t.bufRange first count := by
  refine List.map_congr_left fun i hi => ?_
  obtain ⟨h1, h2⟩ := List.mem_range'_1.1 hi
  exact h i h1 h2

end Sys2Proof.Machine
end

