-- ==== Sys2Proof/Laws/Exec.lean ====
section
/-! SUPPORT. What the operations of one step can do, said once: the shapes their results take, and the inversion
of `exec` over the operation an input selects. -/

namespace Sys2Proof.Machine

/-- Every condition recovers alike. -/
theorem recovered_raise (s : State) (c : Condition) : s.Recovered (raise c s) c.diag :=
  ⟨rfl, rfl, rfl, rfl, fun _ => rfl, rfl, rfl, rfl⟩

/-- After `Append` the cursor's position holds the byte, and the others are as before. -/
theorem stored_appendByte (s : State) (b : Byte) : s.Stored (s.appendByte b) s.cursor b :=
  ⟨by simp, fun _ ha => by simp [Memory.read_write_other _ _ ha]⟩

/-- A counter loaded and tested: where LEN and PAYLOAD go. -/
theorem stateAfterCount_eq (r : Byte) :
    stateAfterCount r = if r = 0 then .awaitingChecksumLow else .awaitingPayload := by
  by_cases h : r = 0
  · rw [if_pos h, h, stateAfterCount_zero]
  · rw [if_neg h, stateAfterCount_of_ne_zero h]

/-- CKHI accepts on a match. -/
theorem execCkhi_accepts {s : State} {b : Byte} (hc : s.cursor ≤ s.cap)
    (hm : s.receivedChecksum b = s.computedChecksum) : execCkhi b s = .next s.accept := by
  simp [execCkhi, hc, checksumMatches, hm]

/-- CKHI rejects on a mismatch. -/
theorem execCkhi_rejects {s : State} {b : Byte} (hc : s.cursor ≤ s.cap)
    (hm : s.receivedChecksum b ≠ s.computedChecksum) : execCkhi b s = .next (raise .checksumMismatch s) := by
  simp [execCkhi, hc, checksumMatches, hm]

/-- What the operation that the input `x` selects in `s` can leave: one case for each way a step can end. -/
inductive Performed (s : State) : Input → State → Prop
  | reset : Performed s .reset (((s.goto .awaitingSync1).setCursor 0).emit .idle)
  | nop (hs : s.st ≠ .reservedCode) : Performed s .noByte (s.emit .idle)
  | overflow (b : Byte) (hc : s.cursor = s.cap)
      (hs : s.st = .awaitingSync1 ∧ b = 0xBB ∨ s.st = .awaitingSync2 ∧ b = 0x66 ∨ s.st = .awaitingType ∨
        s.st = .awaitingLength ∨ s.st = .awaitingPayload) :
      Performed s (.byte b) (raise .bufferOverflow s)
  | sync1Hit (hs : s.st = .awaitingSync1) (hc : s.cursor < s.cap) :
      Performed s (.byte 0xBB) ((s.appendByte 0xBB).goto .awaitingSync2)
  | sync1Miss (b : Byte) (hs : s.st = .awaitingSync1) (hb : b ≠ 0xBB) :
      Performed s (.byte b) (((s.setCursor 0).goto .awaitingSync1).emit .idle)
  | sync2Hit (hs : s.st = .awaitingSync2) (hc : s.cursor < s.cap) :
      Performed s (.byte 0x66) ((s.appendByte 0x66).goto .awaitingType)
  | sync2Miss (b : Byte) (hs : s.st = .awaitingSync2) (hb : b ≠ 0x66) :
      Performed s (.byte b) (raise .syncFailure s)
  | type (b : Byte) (hs : s.st = .awaitingType) (hc : s.cursor < s.cap) :
      Performed s (.byte b) ((s.appendByte b).goto .awaitingLength)
  | len (b : Byte) (hs : s.st = .awaitingLength) (hc : s.cursor < s.cap) :
      Performed s (.byte b) (((s.appendByte b).setRem b).goto (stateAfterCount b))
  | payload (b : Byte) (hs : s.st = .awaitingPayload) (hc : s.cursor < s.cap) :
      Performed s (.byte b) (((s.appendByte b).setRem (decrement s.rem)).goto (stateAfterCount (decrement s.rem)))
  | cklo (b : Byte) (hs : s.st = .awaitingChecksumLow) :
      Performed s (.byte b) (((s.setCklo b).goto .awaitingChecksumHigh).emit .idle)
  | accept (b : Byte) (hs : s.st = .awaitingChecksumHigh) (hc : s.cursor ≤ s.cap)
      (hm : s.receivedChecksum b = s.computedChecksum) : Performed s (.byte b) s.accept
  | reject (b : Byte) (hs : s.st = .awaitingChecksumHigh) (hc : s.cursor ≤ s.cap)
      (hm : s.receivedChecksum b ≠ s.computedChecksum) : Performed s (.byte b) (raise .checksumMismatch s)

/-- An appending operation ends in an overflow or with its byte stored. -/
theorem performed_append {s t : State} {b : Byte} {rest : State → State} (h : appendThen b rest s = .next t)
    (full : s.cursor = s.cap → Performed s (.byte b) (raise .bufferOverflow s))
    (room : s.cursor < s.cap → Performed s (.byte b) (rest (s.appendByte b))) : Performed s (.byte b) t := by
  rcases appendThen_next h with ⟨hc, rfl⟩ | ⟨hc, rfl⟩
  · exact full hc
  · exact room hc

/-- The inversion: a next state of the selected operation is one of the cases. -/
theorem performed_of_exec {s t : State} {x : Input} (h : exec (selectedWhen s.st x) s = .next t) :
    Performed s x t := by
  cases x with
  | reset =>
    cases h
    exact .reset
  | noByte =>
    have hne : s.st ≠ .reservedCode := by
      intro e
      rw [e] at h
      cases h
    have hsel : selectedWhen s.st .noByte = .nop := by
      cases hs : s.st <;> simp_all [selectedWhen]
    rw [hsel] at h
    cases h
    exact .nop hne
  | byte b =>
    cases hs : s.st <;> rw [hs] at h
    case awaitingSync1 =>
      by_cases hb : b = 0xBB
      · subst hb
        exact performed_append (rest := fun t => t.goto .awaitingSync2) h
          (fun hc => .overflow _ hc (.inl ⟨hs, rfl⟩)) (.sync1Hit hs)
      · have hsel : selectedWhen .awaitingSync1 (.byte b) = .sync1Miss b := by
          have : isSync1 b = false := by simpa [isSync1] using hb
          simp [selectedWhen, this]
        rw [hsel] at h
        cases h
        exact .sync1Miss b hs hb
    case awaitingSync2 =>
      by_cases hb : b = 0x66
      · subst hb
        exact performed_append (rest := fun t => t.goto .awaitingType) h
          (fun hc => .overflow _ hc (.inr (.inl ⟨hs, rfl⟩))) (.sync2Hit hs)
      · have hsel : selectedWhen .awaitingSync2 (.byte b) = .sync2Miss b := by
          have : isSync2 b = false := by simpa [isSync2] using hb
          simp [selectedWhen, this]
        rw [hsel] at h
        cases h
        exact .sync2Miss b hs hb
    case awaitingType =>
      exact performed_append (rest := fun t => t.goto .awaitingLength) h
        (fun hc => .overflow _ hc (by simp [hs])) (.type b hs)
    case awaitingLength =>
      exact performed_append
        (rest := fun t => (t.setRem (lengthOperand b)).goto (stateAfterCount (lengthOperand b))) h
        (fun hc => .overflow _ hc (by simp [hs])) (.len b hs)
    case awaitingPayload =>
      exact performed_append
        (rest := fun t => (t.setRem (decrement t.rem)).goto (stateAfterCount (decrement t.rem))) h
        (fun hc => .overflow _ hc (by simp [hs])) (.payload b hs)
    case awaitingChecksumLow =>
      cases h
      exact .cklo b hs
    case awaitingChecksumHigh =>
      rcases execCkhi_next h with ⟨hc, ⟨hm, rfl⟩ | ⟨hm, rfl⟩⟩
      · exact .accept b hs hc hm
      · exact .reject b hs hc hm
    case reservedCode => cases h

end Sys2Proof.Machine
end

