-- ==== Sys2Proof/Laws/PerInstr.lean ====
section
/-! SUPPORT. The family EncodeInRow: the word the encoder gives a well-formed operation is taken by a row of the
map, and that row builds the operation from it (`30_encoding.md` R54, R56). One lemma a constructor. -/

namespace Sys2Proof.Laws.EncodeInRow

/-- Some row of the map takes the operation's word and builds the operation. -/
def Statement (i : Instr) : Prop :=
  wellFormed i = true → ∃ r ∈ rows, Row.takes (encode i) r = true ∧ r.build (operandByte (encode i)) = i

/-- The mask of the operand rows leaves nothing of the byte in the operand's place. -/
theorem byte_and_mask (b : Byte) : b.setWidth 13 &&& (0x1F00 : SelectorWord) = 0 := by
  revert b
  decide +kernel

/-- A word whose low byte is clear gives its operand back from the byte set into it. -/
theorem operandByte_or (p : SelectorWord) (b : Byte) (hp : operandByte p = 0) :
    operandByte (p ||| b.setWidth 13) = b := by
  have hb : (b.setWidth 13).extractLsb' 0 8 = b := by
    revert b
    decide +kernel
  unfold operandByte at hp ⊢
  rw [BitVec.extractLsb'_or, hp, hb]
  simp

/-- An operand row takes its match with any byte in the operand's place. -/
theorem takes_or (p : SelectorWord) (b : Byte) (build : Byte → Instr) (hp : p &&& 0x1F00 = p) :
    Row.takes (p ||| b.setWidth 13) ⟨0x1F00, p, build⟩ = true := by
  have : (p ||| b.setWidth 13) &&& 0x1F00 = p := by
    rw [BitVec.and_comm, BitVec.and_or_distrib_left, BitVec.and_comm, hp, BitVec.and_comm,
      byte_and_mask]
    simp
  simpa [Row.takes] using this

theorem reset : Statement .reset := fun _ => ⟨⟨0x1000, 0x1000, fun _ => .reset⟩, by simp [rows], rfl, rfl⟩

theorem reserved : Statement .reserved := fun _ => ⟨⟨0x1E00, 0x0E00, fun _ => .reserved⟩, by simp [rows], rfl, rfl⟩

theorem nop : Statement .nop := fun _ => ⟨⟨0x1100, 0x0000, fun _ => .nop⟩, by simp [rows], rfl, rfl⟩

theorem sync1Hit : Statement .sync1Hit := fun _ => ⟨⟨0x1FFF, 0x01BB, fun _ => .sync1Hit⟩, by simp [rows], rfl, rfl⟩

theorem sync1Miss (b : Byte) : Statement (.sync1Miss b) := fun _ =>
  ⟨⟨0x1F00, 0x0100, .sync1Miss⟩, by simp [rows], takes_or 0x0100 b _ rfl, congrArg _ (operandByte_or 0x0100 b rfl)⟩

theorem sync2Hit : Statement .sync2Hit := fun _ => ⟨⟨0x1FFF, 0x0366, fun _ => .sync2Hit⟩, by simp [rows], rfl, rfl⟩

theorem sync2Miss (b : Byte) : Statement (.sync2Miss b) := fun _ =>
  ⟨⟨0x1F00, 0x0300, .sync2Miss⟩, by simp [rows], takes_or 0x0300 b _ rfl, congrArg _ (operandByte_or 0x0300 b rfl)⟩

theorem type (b : Byte) : Statement (.type b) := fun _ =>
  ⟨⟨0x1F00, 0x0500, .type⟩, by simp [rows], takes_or 0x0500 b _ rfl, congrArg _ (operandByte_or 0x0500 b rfl)⟩

theorem len (b : Byte) : Statement (.len b) := fun _ =>
  ⟨⟨0x1F00, 0x0700, .len⟩, by simp [rows], takes_or 0x0700 b _ rfl, congrArg _ (operandByte_or 0x0700 b rfl)⟩

theorem payload (b : Byte) : Statement (.payload b) := fun _ =>
  ⟨⟨0x1F00, 0x0900, .payload⟩, by simp [rows], takes_or 0x0900 b _ rfl, congrArg _ (operandByte_or 0x0900 b rfl)⟩

theorem cklo (b : Byte) : Statement (.cklo b) := fun _ =>
  ⟨⟨0x1F00, 0x0B00, .cklo⟩, by simp [rows], takes_or 0x0B00 b _ rfl, congrArg _ (operandByte_or 0x0B00 b rfl)⟩

theorem ckhi (b : Byte) : Statement (.ckhi b) := fun _ =>
  ⟨⟨0x1F00, 0x0D00, .ckhi⟩, by simp [rows], takes_or 0x0D00 b _ rfl, congrArg _ (operandByte_or 0x0D00 b rfl)⟩

end Sys2Proof.Laws.EncodeInRow
end

