-- ==== Sys2Proof/Laws/Run.lean ====
section
/-! SUPPORT. Runs of several steps. -/

namespace Sys2Proof.Machine

@[simp] theorem runSteps_zero (s : State) : runSteps 0 s = .next s := rfl

theorem runSteps_succ {k : Nat} {s t : State} (h : step s = .next t) : runSteps (k + 1) s = runSteps k t := by
  simp [runSteps, h]

/-- A run of at least one step that ends in a next state makes its first step. -/
theorem runSteps_succ_next {k : Nat} {s u : State} (h : runSteps (k + 1) s = .next u) :
    ∃ t, step s = .next t ∧ runSteps k t = .next u := by
  simp only [runSteps] at h
  split at h
  · exact ⟨_, ‹_›, h⟩
  · cases h
  · cases h

/-- A run in two parts. -/
theorem runSteps_add {a b : Nat} {s t : State} (h : runSteps a s = .next t) :
    runSteps (a + b) s = runSteps b t := by
  induction a generalizing s with
  | zero =>
    cases h
    simp
  | succ a ih =>
    obtain ⟨u, h1, h2⟩ := runSteps_succ_next h
    rw [show a + 1 + b = (a + b) + 1 by omega, runSteps_succ h1, ih h2]

end Sys2Proof.Machine
end

