-- ==== Sys2Proof/Tests/Slice0.lean ====
section
/-! SUPPORT. Tests. The expected results are those of `95_test_vectors.md` and of the patterns of `30_encoding.md`
R56; the theorems `witness_…` show states and operands that meet the hypotheses of the obligations. -/

namespace Sys2Proof.Tests

open Sys2Proof Sys2Proof.Machine

/-! ### Helpers -/

/-- The next state, if there is one. -/
def after (o : Host.Outcome State Fault Refusal) : Option State :=
  match o with
  | .next t => some t
  | .fault _ => none
  | .refused _ => none

/-- A candidate of the given bytes in the buffer, in a parser state, with the coming samples. -/
def mid (cap : Nat) (st : ParserState) (rem cklo : Byte) (bytes : List Byte) (next : List Input) : State :=
  { cap := cap, st := st, cursor := bytes.length, rem := rem, cklo := cklo
    buf := bytes.zipIdx.map fun c => (c.2, c.1), inputs := stream next, out := .idle }

/-! ### Well-formedness -/

theorem test_sync1Miss_of_sync1_illFormed : wellFormed (.sync1Miss 0xBB) = false := by decide
theorem test_sync2Miss_of_sync2_illFormed : wellFormed (.sync2Miss 0x66) = false := by decide
theorem test_sync1Miss_of_sync2_wellFormed : wellFormed (.sync1Miss 0x66) = true := by decide
theorem test_sync2Miss_of_sync1_wellFormed : wellFormed (.sync2Miss 0xBB) = true := by decide

/-! ### Decoding: words written out from the patterns of R56 -/

theorem test_decode_reset : decode 0b1000000000000 = .ok .reset ∧ decode 0b1111111111111 = .ok .reset := by decide
theorem test_decode_reserved :
    decode 0b0111000000000 = .ok .reserved ∧ decode 0b0111111111111 = .ok .reserved := by decide
theorem test_decode_nop : decode 0b0000000000000 = .ok .nop ∧ decode 0b0110010111011 = .ok .nop := by decide
theorem test_decode_sync1Hit : decode 0b0000110111011 = .ok .sync1Hit := by decide
theorem test_decode_sync1Miss : decode 0b0000110111010 = .ok (.sync1Miss 0xBA) := by decide
theorem test_decode_sync2Hit : decode 0b0001101100110 = .ok .sync2Hit := by decide
theorem test_decode_sync2Miss : decode 0b0001101100111 = .ok (.sync2Miss 0x67) := by decide
theorem test_decode_type : decode 0b0010100010101 = .ok (.type 0x15) := by decide
theorem test_decode_len : decode 0b0011111111111 = .ok (.len 0xFF) := by decide
theorem test_decode_payload : decode 0b0100111101000 = .ok (.payload 0xE8) := by decide
theorem test_decode_cklo : decode 0b0101110101011 = .ok (.cklo 0xAB) := by decide
theorem test_decode_ckhi : decode 0b0110111101001 = .ok (.ckhi 0xE9) := by decide
theorem test_decode_wide : decodeTableWord 16 0x2000 = none := by decide

/-- After reset every row but RESERVED runs, whatever the free values. -/
theorem test_rows_run_after_reset :
    ∀ w ∈ [0x1000, 0x0000, 0x01BB, 0x0100, 0x0366, 0x0300, 0x0500, 0x0700, 0x0900, 0x0B00, 0x0D00],
      (after (step (State.reset.withFetchWord 16 w))).isSome = true := by decide +kernel

/-! ### The Checksum Engine (section 2.1 of the vectors) -/

theorem test_crcByte_V_C9b : crcByte 0x8F7E 0x00 = 0x200F := by decide +kernel
theorem test_crc16_V_C20 : crc16 [0x15, 0x02, 0xE8, 0x03] = 0xE9AB := by decide +kernel
theorem test_crc16_V_C29 : crc16 [0x15, 0x04, 0x01, 0x02, 0x03, 0x04] = 0x1152 := by decide +kernel
theorem test_frame_V_F9 : frame 0x15 [0x6A] = [0xBB, 0x66, 0x15, 0x01, 0x6A, 0xE1, 0xBB] := by decide +kernel

/-! ### One operation at a time (section 2.2 of the vectors) -/

theorem test_nop_V_A17 :
    (after (step (mid 261 .awaitingChecksumHigh 0 0xAB [0xBB, 0x66, 0x15, 0x02, 0xE8, 0x03] [.noByte]))).map
      (fun t => (t.st, t.cursor, t.cklo, t.out)) = some (.awaitingChecksumHigh, 6, 0xAB, ⟨.incomplete, .none⟩) := by
  decide +kernel

theorem test_reset_V_A20 :
    (after (step (mid 261 .awaitingPayload 1 0 [0xBB, 0x66, 0x15, 0x02, 0xE8] [.reset]))).map
      (fun t => (t.st, t.cursor, t.rem, t.out)) = some (.awaitingSync1, 0, 1, ⟨.incomplete, .none⟩) := by
  decide +kernel

theorem test_reset_V_A21 :
    (after (step { mid 261 .awaitingSync1 0 0 [] [] with inputs := [⟨true, true, 0xBB⟩] })).map
      (fun t => (t.st, t.cursor, t.buf)) = some (.awaitingSync1, 0, []) := by
  decide +kernel

theorem test_reserved_refused :
    step (mid 261 .reservedCode 0 0 [] [.byte 0xBB]) = .refused .reservedStateCode := rfl

theorem test_sync1Hit_V_A2 :
    (after (step (mid 261 .awaitingSync1 0 0 [] [.byte 0xBB]))).map (fun t => (t.st, t.cursor, t.buf)) =
      some (.awaitingSync2, 1, [(0, 0xBB)]) := by
  decide +kernel

theorem test_sync1Miss_V_A3 :
    (after (step (mid 261 .awaitingSync1 0 0 [] [.byte 0x66]))).map (fun t => (t.st, t.cursor, t.buf)) =
      some (.awaitingSync1, 0, []) := by
  decide +kernel

theorem test_sync2Hit_V_A4 :
    (after (step (mid 261 .awaitingSync2 0 0 [0xBB] [.byte 0x66]))).map (fun t => (t.st, t.cursor, t.buf)) =
      some (.awaitingType, 2, [(0, 0xBB), (1, 0x66)]) := by
  decide +kernel

theorem test_sync2Miss_V_A5 :
    (after (step (mid 261 .awaitingSync2 0 0 [0xBB] [.byte 0xBB]))).map (fun t => (t.st, t.cursor, t.buf, t.out)) =
      some (.awaitingSync1, 0, [(0, 0xBB)], ⟨.incomplete, .none⟩) := by
  decide +kernel

theorem test_type_V_A6 :
    (after (step (mid 261 .awaitingType 0 0 [0xBB, 0x66] [.byte 0xBB]))).map
      (fun t => (t.st, t.cursor, t.buf.read 2)) = some (.awaitingLength, 3, some 0xBB) := by
  decide +kernel

theorem test_len_V_A7 :
    (after (step (mid 261 .awaitingLength 9 0 [0xBB, 0x66, 0x15] [.byte 0x00]))).map
      (fun t => (t.st, t.cursor, t.rem, t.buf.read 3)) = some (.awaitingChecksumLow, 4, 0, some 0x00) := by
  decide +kernel

theorem test_len_V_A9 :
    (after (step (mid 261 .awaitingLength 0 0 [0xBB, 0x66, 0x15] [.byte 0xFF]))).map
      (fun t => (t.st, t.cursor, t.rem, t.buf.read 3)) = some (.awaitingPayload, 4, 0xFF, some 0xFF) := by
  decide +kernel

theorem test_payload_overflow_V_A18 :
    (after (step (mid 8 .awaitingPayload 1 0 [0xBB, 0x66, 0x15, 0x05, 1, 2, 3, 4] [.byte 0x05]))).map
      (fun t => (t.st, t.cursor, t.rem, t.buf.length, t.out)) =
      some (.awaitingSync1, 0, 1, 8, ⟨.incomplete, .overflow⟩) := by
  decide +kernel

theorem test_payload_exact_fit_V_A19 :
    (after (step (mid 8 .awaitingPayload 1 0 [0xBB, 0x66, 0x15, 0x04, 1, 2, 3] [.byte 0x04]))).map
      (fun t => (t.st, t.cursor, t.rem, t.buf.read 7, t.out)) =
      some (.awaitingChecksumLow, 8, 0, some 0x04, ⟨.incomplete, .none⟩) := by
  decide +kernel

theorem test_cklo_V_A10d :
    (after (step (mid 261 .awaitingChecksumLow 0 0 [0xBB, 0x66, 0x15, 0x02, 0xE8, 0x03] [.byte 0xAB]))).map
      (fun t => (t.st, t.cursor, t.cklo, t.buf.length)) = some (.awaitingChecksumHigh, 6, 0xAB, 6) := by
  decide +kernel

theorem test_ckhi_V_A12 :
    (after (step (mid 261 .awaitingChecksumHigh 0 0xAB [0xBB, 0x66, 0x15, 0x02, 0xE8, 0x03] [.byte 0xE9]))).map
      (fun t => (t.st, t.cursor, t.out, t.reading)) =
      some (.awaitingSync1, 0, ⟨.complete 6, .none⟩, some 1000) := by
  decide +kernel

theorem test_ckhi_V_A16 :
    (after (step (mid 261 .awaitingChecksumHigh 0 0xCA [0xBB, 0x66, 0x15, 0x00] [.byte 0x4F]))).map
      (fun t => (t.st, t.cursor, t.out)) = some (.awaitingSync1, 0, ⟨.incomplete, .crcMismatch⟩) := by
  decide +kernel

/-! ### The host interface (section 2.3 of the vectors) -/

theorem test_decodeReading_V_D2 :
    decodeReading (fun i => [0xBB, 0x66, 0x15, 0x02, 0x03, 0xE8].getD i 0) 6 = some 59395 := by decide +kernel
theorem test_decodeReading_V_D3 :
    decodeReading (fun i => [0xBB, 0x66, 0x15, 0x01, 0x2A, 0xE8].getD i 0) 5 = none := by decide +kernel
theorem test_cw_261 : Config.cw 261 = 9 := by decide +kernel

/-! ### States that meet the invariants, one for each parser state -/

/-- The invariants of a state built by `mid`, from what `decide` can see of it. -/
theorem inv_mid {cap : Nat} {st : ParserState} {rem cklo : Byte} {bytes : List Byte} {next : List Input}
    (hcap : 4 ≤ cap) (hfit : bytes.length ≤ cap)
    (hcan : (mid cap st rem cklo bytes next).buf.wf)
    (hin : ∀ c ∈ (mid cap st rem cklo bytes next).buf, c.1 < bytes.length)
    (hwr : ∀ i < bytes.length, ((mid cap st rem cklo bytes next).buf.read i).isSome)
    (hrow : (mid cap st rem cklo bytes next).row st) : (mid cap st rem cklo bytes next).Inv :=
  ⟨hcap, hfit, hcan, fun c hc => Nat.lt_of_lt_of_le (hin c hc) hfit, hwr, hrow⟩

theorem inv_sync1 (next : List Input) : (mid 4 .awaitingSync1 0 0 [] next).Inv :=
  inv_mid (by decide) (by decide) (by simp [mid]) (by simp [mid]) (by simp) rfl

theorem inv_sync2 (next : List Input) : (mid 4 .awaitingSync2 0 0 [0xBB] next).Inv :=
  inv_mid (by decide) (by decide) (by simp [mid]) (by simp [mid]) (by simp [mid, Memory.read])
    ⟨rfl, rfl⟩

theorem inv_type (next : List Input) : (mid 4 .awaitingType 0 0 [0xBB, 0x66] next).Inv :=
  inv_mid (by decide) (by decide) (by simp [mid]) (by simp [mid])
    (fun i hi => by simp only [List.length_cons, List.length_nil] at hi; interval_cases i <;> rfl)
    ⟨rfl, rfl, rfl⟩

theorem inv_length (next : List Input) : (mid 4 .awaitingLength 0 0 [0xBB, 0x66, 0x15] next).Inv :=
  inv_mid (by decide) (by decide) (by simp [mid]) (by simp [mid])
    (fun i hi => by simp only [List.length_cons, List.length_nil] at hi; interval_cases i <;> rfl)
    ⟨rfl, rfl, rfl⟩

/-- A payload state: the header and some payload, with `rem` bytes to come. -/
theorem inv_payload {cap : Nat} (hcap : 5 ≤ cap) (rem : Byte) (hr : rem ≠ 0) (hsum : rem.toNat < 255)
    (next : List Input) :
    (mid cap .awaitingPayload rem 0 [0xBB, 0x66, 0x15, rem + 1, 0x2A] next).Inv := by
  refine inv_mid (by omega) hcap (by simp [mid]) (by simp [mid])
    (fun i hi => by simp only [List.length_cons, List.length_nil] at hi; interval_cases i <;> rfl) ?_
  refine ⟨by simp [mid], hr, ?_, rfl, rfl⟩
  change 5 + rem.toNat = 4 + (rem + 1).toNat
  bv_omega

theorem inv_checksumLow (next : List Input) :
    (mid 4 .awaitingChecksumLow 0 0 [0xBB, 0x66, 0x15, 0x00] next).Inv :=
  inv_mid (by decide) (by decide) (by simp [mid]) (by simp [mid])
    (fun i hi => by simp only [List.length_cons, List.length_nil] at hi; interval_cases i <;> rfl)
    ⟨rfl, rfl, rfl, rfl⟩

theorem inv_checksumHigh (next : List Input) :
    (mid 4 .awaitingChecksumHigh 0 0x0F [0xBB, 0x66, 0x15, 0x00] next).Inv :=
  inv_mid (by decide) (by decide) (by simp [mid]) (by simp [mid])
    (fun i hi => by simp only [List.length_cons, List.length_nil] at hi; interval_cases i <;> rfl)
    ⟨rfl, rfl, rfl, rfl⟩

/-! ### Witnesses: the Checksum Engine and the encoding -/

theorem witness_CrcBitShiftsAndXors : (0x0001 : Word16).getLsbD 0 = true ∧ (0x8000 : Word16).getLsbD 0 = false := by
  decide

theorem witness_ChecksumTellsOneChangedByte : crc16 ([0x15] ++ 0x01 :: [0x2A]) = crc16 ([0x15] ++ 0x01 :: [0x2A]) := rfl

theorem witness_ChecksumGrowsWithAppends :
    (mid 4 .awaitingType 0 0 [0xBB, 0x66] []).cursor = 2 ∧ 2 ≤ (mid 8 .awaitingPayload 1 0 [0xBB, 0x66, 0x15, 1] []).cursor := by
  decide

theorem witness_DecodeOfEncodeIsSame :
    wellFormed (.sync1Miss 0x00) = true ∧ wellFormed (.sync2Miss 0xFF) = true ∧ wellFormed (.ckhi 0xFF) = true := by decide

theorem witness_EncodeOfDecodeKeepsCareBits :
    decode 0b1110110111011 = .ok .reset ∧ decode 0x0DFF = .ok (.ckhi 0xFF) := by decide

theorem witness_WideNumbersAreRefused : 2 ^ 13 ≤ 0x2000 := by decide

/-! ### Witnesses: the step -/

theorem witness_StepPerformsSelectedOperation :
    decode (selector State.reset.st State.reset.pins) = .ok .nop ∧
    (mid 4 .awaitingSync1 0 0 [] [.byte 0xBB, .noByte]).inputs = (Input.byte 0xBB).pins :: stream [.noByte] ∧
    State.reset.inputs = [] := by
  decide

theorem witness_PresentedWordIsPerformed :
    0x1FFF < 2 ^ 13 ∧ decodeTableWord 16 0x1FFF = some .reset ∧ 0 < 2 ^ 13 ∧ decodeTableWord 16 0 = some .nop := by decide

theorem witness_NopWritesNothing :
    (∃ s : State, s.st ≠ .reservedCode ∧ s.pins.input = .noByte) ∧
    ∃ s : State, s.st ≠ .reservedCode ∧ s.inputs = List.replicate (0 + 1) Input.noByte.pins ++ [] :=
  ⟨⟨State.reset, by decide⟩, ⟨mid 4 .awaitingChecksumHigh 0 0 [0xBB, 0x66, 0x15, 0x00] [.noByte], by decide⟩⟩

theorem witness_ResetClearsStateAndCursorOnly :
    (mid 4 .reservedCode 0 0 [] [.reset]).pins.rst = true := by decide

theorem witness_ReservedCodeIsRefused :
    (∃ s : State, s.st = .reservedCode ∧ s.pins.input ≠ .reset) ∧
    (∃ s : State, s.st = .reservedCode ∧ s.pins.input = .reset) ∧
    ∃ s t : State, step s = .next t :=
  ⟨⟨mid 4 .reservedCode 0 0 [] [.noByte], by decide⟩, ⟨mid 4 .reservedCode 0 0 [] [.reset], by decide⟩,
    ⟨mid 4 .reservedCode 0 0 [] [.reset], _, rfl⟩⟩

/-! ### Witnesses: the operations -/

theorem witness_Sync1HitAppendsSync1 :
    (∃ s : State, s.st = .awaitingSync1 ∧ s.pins.input = .byte 0xBB ∧ s.cursor < s.cap) ∧
    ∃ s : State, s.cursor = s.cap :=
  ⟨⟨mid 1 .awaitingSync1 0 0 [] [.byte 0xBB], by decide⟩, ⟨mid 0 .awaitingSync1 0 0 [] [], by decide⟩⟩

theorem witness_Sync1MissDiscardsByte :
    ∃ s : State, s.st = .awaitingSync1 ∧ s.pins.input = .byte 0xBC ∧ (0xBC : Byte) ≠ 0xBB :=
  ⟨mid 4 .awaitingSync1 0 0 [] [.byte 0xBC], by decide⟩

theorem witness_Sync2HitAppendsSync2 :
    (∃ s : State, s.st = .awaitingSync2 ∧ s.pins.input = .byte 0x66 ∧ s.cursor < s.cap) ∧
    ∃ s : State, s.cursor = s.cap :=
  ⟨⟨mid 2 .awaitingSync2 0 0 [0xBB] [.byte 0x66], by decide⟩, ⟨mid 1 .awaitingSync2 0 0 [0xBB] [], by decide⟩⟩

theorem witness_Sync2MissStartsOver :
    ∃ s : State, s.st = .awaitingSync2 ∧ s.pins.input = .byte 0x67 ∧ (0x67 : Byte) ≠ 0x66 :=
  ⟨mid 4 .awaitingSync2 0 0 [0xBB] [.byte 0x67], by decide⟩

theorem witness_TypeAppendsAnyByte :
    (∃ s : State, s.st = .awaitingType ∧ s.pins.input = .byte 0xFF ∧ s.cursor < s.cap) ∧
    ∃ s : State, s.cursor = s.cap :=
  ⟨⟨mid 3 .awaitingType 0 0 [0xBB, 0x66] [.byte 0xFF], by decide⟩, ⟨mid 2 .awaitingType 0 0 [0xBB, 0x66] [], by decide⟩⟩

theorem witness_LenLoadsCounter :
    (∃ s : State, s.st = .awaitingLength ∧ s.pins.input = .byte 0xFF ∧ s.cursor < s.cap) ∧
    ∃ s : State, s.cursor = s.cap :=
  ⟨⟨mid 4 .awaitingLength 0 0 [0xBB, 0x66, 0x15] [.byte 0xFF], by decide⟩,
    ⟨mid 3 .awaitingLength 0 0 [0xBB, 0x66, 0x15] [], by decide⟩⟩

theorem witness_PayloadCountsDown :
    (∃ s : State, s.st = .awaitingPayload ∧ s.pins.input = .byte 0xBB ∧ s.cursor < s.cap ∧ s.rem ≠ 0) ∧
    ∃ s : State, s.cursor = s.cap :=
  ⟨⟨mid 5 .awaitingPayload 1 0 [0xBB, 0x66, 0x15, 1] [.byte 0xBB], by decide⟩,
    ⟨mid 4 .awaitingPayload 1 0 [0xBB, 0x66, 0x15, 1] [], by decide⟩⟩

theorem witness_PayloadRunsAtZeroCounter : ∃ s : State, s.cursor < s.cap ∧ s.rem = 0 :=
  ⟨mid 5 .awaitingPayload 0 0 [0xBB, 0x66, 0x15, 1] [], by decide⟩

theorem witness_CkloKeepsLowByte :
    ∃ s : State, s.st = .awaitingChecksumLow ∧ s.pins.input = .byte 0xAB :=
  ⟨mid 4 .awaitingChecksumLow 0 0 [0xBB, 0x66, 0x15, 0] [.byte 0xAB], by decide⟩

/-- A match and a mismatch, in a buffer filled exactly (V-A13, V-A15). -/
theorem witness_CkhiAcceptsOrRejects :
    (∃ s : State, s.st = .awaitingChecksumHigh ∧ s.pins.input = .byte 0x20 ∧ s.cursor ≤ s.cap ∧
      ((0x20 : Byte).setWidth 16 <<< 8) ||| s.cklo.setWidth 16 = crc16 (s.bufRange 2 (s.cursor - 2))) ∧
    ∃ s : State, s.cursor ≤ s.cap ∧
      ((0x0F : Byte).setWidth 16 <<< 8) ||| s.cklo.setWidth 16 ≠ crc16 (s.bufRange 2 (s.cursor - 2)) :=
  ⟨⟨mid 4 .awaitingChecksumHigh 0 0x0F [0xBB, 0x66, 0x15, 0] [.byte 0x20], by decide +kernel⟩,
    ⟨mid 4 .awaitingChecksumHigh 0 0x20 [0xBB, 0x66, 0x15, 0] [.byte 0x0F], by decide +kernel⟩⟩

theorem witness_BeyondCapacityFaults :
    ∃ s : State, s.cap < s.cursor := ⟨mid 4 .awaitingPayload 1 0 [0xBB, 0x66, 0x15, 2, 0] [], by decide⟩

/-! ### Witnesses: reset, the invariants, the whole machine -/

theorem witness_ConstructionNeedsHeaderRoom : 4 ≤ 4 ∧ 3 < 4 := by decide

theorem witness_ResetMeetsInvariants : 4 ≤ 4 := by decide

theorem witness_StepKeepsInvariants : ∃ s t : State, s.Inv ∧ step s = .next t :=
  ⟨_, _, inv_checksumHigh [.byte 0x20], rfl⟩

theorem witness_NothingIsFatal : ∃ s : State, s.Inv := ⟨_, inv_length []⟩

theorem witness_StepKeepsBufferCanonical :
    ∃ s t : State, step s = .next t ∧ s.buf.wf ∧ ∀ c ∈ s.buf, c.1 < s.cap :=
  ⟨mid 4 .awaitingSync2 0 0 [0xBB] [.noByte], _, rfl, by decide, by decide⟩

theorem witness_StepStoresOnlyAtCursor :
    ∃ s t : State, step s = .next t ∧ t.cursor ≠ s.cursor + 1 :=
  ⟨mid 4 .awaitingSync2 0 0 [0xBB] [.byte 0], _, rfl, by decide⟩

/-- Every row of R91 is met by a state with the invariants, the payload rows at their boundaries. -/
theorem witness_SuccessorTable :
    (∃ s : State, s.Inv ∧ s.st = .awaitingSync1 ∧ s.pins.input = .noByte) ∧
    (∃ s : State, s.Inv ∧ s.st = .awaitingSync2 ∧ s.pins.input = .reset) ∧
    (∃ s : State, s.Inv ∧ s.st = .awaitingSync1 ∧ s.pins.input = .byte 0xBB) ∧
    (∃ s : State, s.Inv ∧ s.st = .awaitingSync2 ∧ s.pins.input = .byte 0x66) ∧
    (∃ s : State, s.Inv ∧ s.st = .awaitingType ∧ s.pins.input = .byte 0x15) ∧
    (∃ s : State, s.Inv ∧ s.st = .awaitingLength ∧ s.pins.input = .byte 0x00) ∧
    (∃ s : State, s.Inv ∧ s.st = .awaitingPayload ∧ s.pins.input = .byte 0 ∧ s.cursor = s.cap) ∧
    (∃ s : State, s.Inv ∧ s.st = .awaitingPayload ∧ s.pins.input = .byte 0 ∧ s.cursor < s.cap ∧ s.rem = 1) ∧
    (∃ s : State, s.Inv ∧ s.st = .awaitingPayload ∧ s.pins.input = .byte 0 ∧ s.cursor < s.cap ∧ 1 < s.rem.toNat) ∧
    (∃ s : State, s.Inv ∧ s.st = .awaitingChecksumLow ∧ s.pins.input = .byte 0x0F) ∧
    (∃ s : State, s.Inv ∧ s.st = .awaitingChecksumHigh ∧ s.pins.input = .byte 0x20) :=
  ⟨⟨_, inv_sync1 [.noByte], by decide⟩, ⟨_, inv_sync2 [.reset], by decide⟩, ⟨_, inv_sync1 [.byte 0xBB], by decide⟩,
    ⟨_, inv_sync2 [.byte 0x66], by decide⟩, ⟨_, inv_type [.byte 0x15], by decide⟩,
    ⟨_, inv_length [.byte 0x00], by decide⟩,
    ⟨_, inv_payload (cap := 5) (by decide) 1 (by decide) (by decide) [.byte 0], by decide⟩,
    ⟨_, inv_payload (cap := 6) (by decide) 1 (by decide) (by decide) [.byte 0], by decide⟩,
    ⟨_, inv_payload (cap := 6) (by decide) 2 (by decide) (by decide) [.byte 0], by decide⟩,
    ⟨_, inv_checksumLow [.byte 0x0F], by decide⟩, ⟨_, inv_checksumHigh [.byte 0x20], by decide⟩⟩

/-- Both sides: a step that completes a frame, and one that does not. -/
theorem witness_CompleteOnlyFromMatch :
    (∃ s t : State, step s = .next t ∧ t.out.result = .complete 4) ∧
    ∃ s t : State, step s = .next t ∧ t.out.result = .incomplete :=
  ⟨⟨mid 4 .awaitingChecksumHigh 0 0x0F [0xBB, 0x66, 0x15, 0] [.byte 0x20], _, rfl, by decide +kernel⟩,
    ⟨mid 4 .awaitingSync1 0 0 [] [.noByte], _, rfl, by decide +kernel⟩⟩

theorem witness_FrameLengthCountsHeaderAndPayload :
    ∃ s t : State, s.Inv ∧ step s = .next t ∧ t.out.result = .complete 4 :=
  ⟨_, _, inv_checksumHigh [.byte 0x20], rfl, by decide +kernel⟩

theorem witness_DiagnosticsTellTheirCause :
    (∃ s t : State, step s = .next t ∧ t.out.diag = .crcMismatch) ∧
    ∃ s t : State, step s = .next t ∧ t.out.diag = .overflow :=
  ⟨⟨mid 4 .awaitingChecksumHigh 0 0x20 [0xBB, 0x66, 0x15, 0] [.byte 0x0F], _, rfl, by decide +kernel⟩,
    ⟨mid 4 .awaitingPayload 1 0 [0xBB, 0x66, 0x15, 1] [.byte 0x2A], _, rfl, by decide +kernel⟩⟩

theorem witness_OverflowNeedsSmallBuffer :
    ∃ s t : State, s.Inv ∧ step s = .next t ∧ t.out.diag = .overflow :=
  ⟨_, _, inv_payload (cap := 5) (by decide) 1 (by decide) (by decide) [.byte 0], rfl, by decide +kernel⟩

theorem witness_ChecksumReadsOnlyWritten : ∃ s : State, s.Inv ∧ s.st = .awaitingChecksumHigh :=
  ⟨_, inv_checksumHigh [], rfl⟩

/-- Two states that differ in both registers, and a run of one. -/
theorem witness_StaleRegistersInfluenceNothing :
    ∃ s t s' : State, s.SameButStale t ∧ s.rem ≠ t.rem ∧ s.cklo ≠ t.cklo ∧ runSteps 1 s = .next s' :=
  ⟨mid 4 .awaitingSync1 1 2 [] [.byte 0xBB], mid 4 .awaitingSync1 3 4 [] [.byte 0xBB], _,
    ⟨rfl, rfl, rfl, rfl, rfl, rfl, by simp [mid], by simp [mid]⟩, by decide, by decide, rfl⟩

theorem witness_BufferSteersOnlyChecksum :
    ∃ s s' : State, step s = .next s' ∧ s.st ≠ .awaitingChecksumHigh :=
  ⟨mid 4 .awaitingChecksumLow 0 0 [0xBB, 0x66, 0x15, 0] [.byte 0x0F], _, rfl, by decide⟩

/-! ### Witnesses: whole frames and the host interface -/

/-- A frame that fills the buffer exactly. -/
theorem witness_ValidFrameCompletesOnce :
    ∃ (s : State) (payload : List Byte), s.st = .awaitingSync1 ∧ s.cursor = 0 ∧ payload.length ≤ 255 ∧
      4 + payload.length ≤ s.cap ∧ s.inputs = byteStream (frame 0x15 payload) ++ [] :=
  ⟨{ State.resetOf 6 with inputs := byteStream (frame 0x15 [0xE8, 0x03]) }, [0xE8, 0x03],
    rfl, rfl, by decide, by decide, by simp⟩

theorem witness_GarbageLeavesSearch :
    ∃ (s : State) (garbage : List Byte), s.st = .awaitingSync1 ∧ s.cursor = 0 ∧ garbage ≠ [] ∧
      (∀ b ∈ garbage, b ≠ 0xBB) ∧ s.inputs = byteStream garbage ++ [] :=
  ⟨{ State.resetOf 4 with inputs := byteStream [0xAA, 0x66] }, [0xAA, 0x66], rfl, rfl, by decide, by decide, by simp⟩

/-- The Type changed, and a payload byte changed. -/
theorem witness_OneChangedByteIsRejected :
    (∃ (s : State) (type type' : Byte) (payload payload' : List Byte), s.st = .awaitingSync1 ∧ s.cursor = 0 ∧
      payload.length ≤ 255 ∧ 4 + payload.length ≤ s.cap ∧ (type' ≠ type ∧ payload' = payload) ∧
      s.inputs = byteStream (frameWith type' payload' ((crc16 (frameDomain type payload)).extractLsb' 0 8)
        ((crc16 (frameDomain type payload)).extractLsb' 8 8)) ++ []) ∧
    ∃ (s : State) (type : Byte) (payload payload' : List Byte), s.st = .awaitingSync1 ∧ s.cursor = 0 ∧
      payload.length ≤ 255 ∧ 4 + payload.length ≤ s.cap ∧
      (∃ before a b after, a ≠ b ∧ payload = before ++ a :: after ∧ payload' = before ++ b :: after) ∧
      s.inputs = byteStream (frameWith type payload' ((crc16 (frameDomain type payload)).extractLsb' 0 8)
        ((crc16 (frameDomain type payload)).extractLsb' 8 8)) ++ [] :=
  ⟨⟨{ State.resetOf 4 with inputs := byteStream (frameWith 0x14 [] ((crc16 (frameDomain 0x15 [])).extractLsb' 0 8)
        ((crc16 (frameDomain 0x15 [])).extractLsb' 8 8)) }, 0x15, 0x14, [], [],
      rfl, rfl, by decide, by decide, by decide, by simp⟩,
    ⟨{ State.resetOf 6 with inputs := byteStream (frameWith 0x15 [0xE9, 0x03]
        ((crc16 (frameDomain 0x15 [0xE8, 0x03])).extractLsb' 0 8)
        ((crc16 (frameDomain 0x15 [0xE8, 0x03])).extractLsb' 8 8)) }, 0x15, [0xE8, 0x03], [0xE9, 0x03],
      rfl, rfl, by decide, by decide, ⟨[], 0xE8, 0xE9, [0x03], by decide, rfl, rfl⟩, by simp⟩⟩

/-- One payload byte too many. -/
theorem witness_LongFrameOverflowsAtCapacity :
    ∃ (s : State) (payload : List Byte), s.st = .awaitingSync1 ∧ s.cursor = 0 ∧ payload.length ≤ 255 ∧ 4 ≤ s.cap ∧
      s.cap < 4 + payload.length ∧ s.inputs = byteStream (frameWith 0x15 payload 0xE0 0x4B) ++ [] :=
  ⟨{ State.resetOf 4 with inputs := byteStream (frameWith 0x15 [0x2A] 0xE0 0x4B) }, [0x2A],
    rfl, rfl, by decide, by decide, by decide, by simp⟩

/-- Position 1 after one further byte, the boundary of the window. -/
theorem witness_CompletedFrameSurvives :
    ∃ s t : State, s.cursor = 0 ∧ runSteps 1 s = .next t ∧ s.bytesWithin 1 ≤ 1 :=
  ⟨mid 4 .awaitingSync1 0 0 [] [.byte 0xBB], _, rfl, rfl, by decide⟩

theorem witness_SyncPositionsKeepSyncBytes :
    ∃ s t : State, s.Inv ∧ s.syncHeld ∧ runSteps 1 s = .next t :=
  ⟨_, _, inv_checksumHigh [.byte 0x20], ⟨rfl, rfl⟩, rfl⟩

theorem witness_PinsCarryOutputs :
    (∃ s : State, s.out.result = .complete 4) ∧ ∃ s : State, s.out.result = .incomplete :=
  ⟨⟨{ State.reset with out := ⟨.complete 4, .none⟩ }, rfl⟩, ⟨State.reset, rfl⟩⟩

theorem witness_ReadPortShowsWrittenBytes :
    ∃ s : State, 3 < s.cap ∧ s.buf.read 3 = some 0x00 :=
  ⟨mid 4 .awaitingChecksumLow 0 0 [0xBB, 0x66, 0x15, 0x00] [], by decide⟩

theorem witness_ReadingIsFirstTwoPayloadBytes :
    (∃ buf : Nat → Byte, buf 2 = 0x15) ∧ 6 ≤ 6 ∧ 5 < 6 ∧ ∃ buf : Nat → Byte, buf 2 ≠ 0x15 :=
  ⟨⟨fun _ => 0x15, rfl⟩, by decide, by decide, ⟨fun _ => 0x16, by decide⟩⟩

theorem witness_ReadingOnlyOfCompleteFrames :
    (∃ s : State, s.out.result = .incomplete) ∧ ∃ s : State, s.out.result = .complete 6 :=
  ⟨⟨State.reset, rfl⟩, ⟨{ State.reset with out := ⟨.complete 6, .none⟩ }, rfl⟩⟩

theorem witness_CursorWidthIsLeast : 261 ≤ 261 ∧ 261 < 2 ^ 9 := by decide

end Sys2Proof.Tests
end

/-! PROOFS. The Checksum Engine, rule by rule: the shift step (`40_checksum_engine.md` R70), the byte step (R71)
and the whole sequence (R72). The values the rules quote are evaluated apart from the laws. -/

namespace Sys2Proof.Machine

/-- R70 for a shifted-out 1. -/
theorem crcBit_of_bit_zero_set {r : Word16} (h : r.getLsbD 0 = true) :
    crcBit r = (r >>> 1) ^^^ Config.crcPoly := if_pos h

/-- R70 for a shifted-out 0. -/
theorem crcBit_of_bit_zero_clear {r : Word16} (h : r.getLsbD 0 = false) : crcBit r = r >>> 1 :=
  if_neg (ne_true_of_eq_false h)

/-- R71: a byte is XORed into bits 7:0 only. -/
theorem extractLsb'_high_xor_byte (r : Word16) (b : Byte) :
    (r ^^^ b.setWidth 16).extractLsb' 8 8 = r.extractLsb' 8 8 := by
  have hb : (b.setWidth 16).extractLsb' 8 8 = 0#8 := by ext i hi; simp
  rw [BitVec.extractLsb'_xor, hb, BitVec.xor_zero]

/-- R72: one more byte is one more byte step. -/
@[simp] theorem crc16_concat (s : List Byte) (b : Byte) : crc16 (s ++ [b]) = crcByte (crc16 s) b :=
  List.foldl_concat ..

/-- The corner cases of R70. -/
theorem crcBit_corner_cases :
    crcBit 0x0000 = 0x0000 ∧ crcBit 0x0001 = 0xA001 ∧ crcBit 0x0002 = 0x0001 ∧
    crcBit 0x8000 = 0x4000 ∧ crcBit 0xFFFF = 0xDFFE := by decide

/-- The corner cases of R71. -/
theorem crcByte_corner_cases :
    crcByte 0x0000 0x00 = 0x0000 ∧ crcByte 0x0000 0x01 = 0xC0C1 ∧ crcByte 0xFFFF 0x00 = 0x40BF ∧
    crcByte 0xFFFF 0xFF = 0x00FF ∧ crcByte 0xFFFF 0x15 = 0x8F7E := by decide

/-- The worked example of R71: every register value on the way from `0xFFEA` to `0x8F7E`. -/
theorem crcShift_worked_example :
    [1, 2, 3, 4, 5, 6, 7, 8].map (fun n => crcShift n 0xFFEA) =
      [0x7FF5, 0x9FFB, 0xEFFC, 0x77FE, 0x3BFF, 0xBDFE, 0x5EFF, 0x8F7E] := by decide

/-- The corner cases and examples of R72; the last is the check value of `"123456789"`. -/
theorem crc16_examples :
    crc16 [0x00] = 0x40BF ∧ crc16 [0x01] = 0x807E ∧ crc16 [0xFF] = 0x00FF ∧
    crc16 [0x15, 0x00] = 0x200F ∧ crcByte 0x8F7E 0x00 = 0x200F ∧
    crc16 [0x15, 0x02, 0xE8, 0x03] = 0xE9AB ∧
    crc16 [0x31, 0x32, 0x33, 0x34, 0x35, 0x36, 0x37, 0x38, 0x39] = 0x4B37 := by decide +kernel

/-- Settles O1: the two branches of the shift step; bit 15 of the result is the bit shifted out. -/
theorem crcBitShiftsAndXors : Obligations.CrcBitShiftsAndXors :=
  ⟨fun _ => crcBit_of_bit_zero_set,
    fun r h => ⟨crcBit_of_bit_zero_clear h, (getMsbD_crcBit r).trans h⟩, crcBit_corner_cases⟩

/-- Settles O2: `crcShift 8` is eight nested shift steps, started on the register XOR the byte. -/
theorem crcByteXorsOnceThenShifts : Obligations.CrcByteXorsOnceThenShifts := by
  obtain ⟨h₁, h₂, h₃, h₄, h₅⟩ := crcByte_corner_cases
  exact ⟨fun r b => ⟨rfl, extractLsb'_high_xor_byte r b⟩, h₁, h₂, h₃, h₄, h₅, crcShift_worked_example⟩

/-- Settles O3: the checksum is a left fold of the byte step, so the last byte is the outermost one. -/
theorem crc16AbsorbsBytesInOrder : Obligations.Crc16AbsorbsBytesInOrder :=
  ⟨crc16_nil, crc16_concat, crc16_examples⟩

end Sys2Proof.Machine

/-! PROOFS. Which operation a step selects: the masks of the map (`30_encoding.md` R54, R56) against its column
"selected when". A selector word is five bits of state and control above the input byte, and every mask and every
match is cut the same way. -/

namespace Sys2Proof.Machine

/-- The bits `rst`, `st[2:0]`, `in_valid` of the selector word (`30_encoding.md` R54). -/
def selectorHead (p : ParserState) (x : Pins) : BitVec 5 :=
  BitVec.ofBool x.rst ++ p.code ++ BitVec.ofBool x.inValid

theorem selector_eq_append (p : ParserState) (x : Pins) : selector p x = selectorHead p x ++ x.inByte := rfl

@[simp] theorem operandByte_append (h : BitVec 5) (b : Byte) : operandByte (h ++ b : SelectorWord) = b :=
  BitVec.extractLsb'_append_eq_right

/-- A word is told by its five upper bits and its byte. -/
theorem append_eq_word_iff (h : BitVec 5) (b : Byte) (w : SelectorWord) :
    (h ++ b : SelectorWord) = w ↔ h = w.extractLsb' 8 5 ∧ b = w.extractLsb' 0 8 := by
  constructor
  · rintro rfl
    exact ⟨BitVec.extractLsb'_append_eq_left.symm, BitVec.extractLsb'_append_eq_right.symm⟩
  · rintro ⟨rfl, rfl⟩
    exact BitVec.extractLsb'_append_extractLsb'

/-- A row tests the five upper bits and the byte apart. -/
theorem takes_append (h : BitVec 5) (b : Byte) (r : Row) :
    Row.takes (h ++ b) r = (h &&& r.mask.extractLsb' 8 5 == r.pattern.extractLsb' 8 5 &&
      b &&& r.mask.extractLsb' 0 8 == r.pattern.extractLsb' 0 8) := by
  have hm := (append_eq_word_iff _ _ r.mask).2 ⟨rfl, rfl⟩
  rw [Row.takes, ← congrArg (_ &&& ·) hm, BitVec.and_append, Bool.eq_iff_iff]
  simp [append_eq_word_iff]

/-- The map selects what its column "selected when" says. The sync rows look at the byte; every other row is told
from its neighbours by the five upper bits. -/
theorem decode_selector (p : ParserState) (x : Pins) : decode (selector p x) = .ok (selectedWhen p x.input) := by
  obtain ⟨rst, valid, b⟩ := x
  have hbyte : b &&& 0xFF#8 = b := BitVec.and_allOnes
  rw [selector_eq_append]
  cases rst <;> cases valid <;> cases p
  case false.true.awaitingSync1 =>
    by_cases hb : b = 0xBB#8
    · subst hb
      rfl
    · simp [decode, rows, takes_append, selectorHead, ParserState.code, selectedWhen, Pins.input, isSync1, hbyte,
        beq_false_of_ne hb]
  case false.true.awaitingSync2 =>
    by_cases hb : b = 0x66#8
    · subst hb
      rfl
    · simp [decode, rows, takes_append, selectorHead, ParserState.code, selectedWhen, Pins.input, isSync2, hbyte,
        beq_false_of_ne hb]
  all_goals simp [decode, rows, takes_append, selectorHead, ParserState.code, selectedWhen, Pins.input]

/-- The operation of a step, by the parser state and the input (R54, R56). -/
theorem fetch_of {s : State} {p : ParserState} {x : Input} (hs : s.st = p) (hx : s.pins.input = x) :
    s.fetch = .ok (selectedWhen p x) := by
  rw [State.fetch, decode_selector, hs, hx]

/-- One step performs the operation its input selects on the state with the sample taken (R80). -/
theorem step_eq_exec (s : State) : step s = exec (selectedWhen s.st s.pins.input) s.consume := by
  rw [step, fetch_of rfl rfl]

theorem selectedWhen_noByte {p : ParserState} (hp : p ≠ .reservedCode) : selectedWhen p .noByte = .nop := by
  cases p with
  | reservedCode => exact absurd rfl hp
  | _ => rfl

theorem selectedWhen_sync1_miss {b : Byte} (hb : b ≠ 0xBB) :
    selectedWhen .awaitingSync1 (.byte b) = .sync1Miss b :=
  if_neg (ne_true_of_eq_false (beq_false_of_ne hb))

theorem selectedWhen_sync2_miss {b : Byte} (hb : b ≠ 0x66) :
    selectedWhen .awaitingSync2 (.byte b) = .sync2Miss b :=
  if_neg (ne_true_of_eq_false (beq_false_of_ne hb))

end Sys2Proof.Machine

/-! PROOFS. The Frame Assembler, operation by operation (`41_frame_assembler.md` R81 to R90): which input selects
it, and what it leaves. -/

namespace Sys2Proof.Machine

/-- What the appending operations leave with room for the byte: SYNC1_HIT, SYNC2_HIT and TYPE keep the counter. -/
theorem appended_goto (s : State) (b : Byte) (p : ParserState) :
    s.Appended ((s.appendByte b).goto p) b p s.rem :=
  ⟨stored_appendByte s b, rfl, rfl, rfl, rfl, rfl, rfl, rfl⟩

/-- What LEN and PAYLOAD leave with room for the byte. -/
theorem appended_setRem_goto (s : State) (b r : Byte) (p : ParserState) :
    s.Appended (((s.appendByte b).setRem r).goto p) b p r :=
  ⟨stored_appendByte s b, rfl, rfl, rfl, rfl, rfl, rfl, rfl⟩

/-- An appending operation on a full buffer is the overflow recovery, whatever the rest of it (R113, R115). -/
theorem appendThen_full_recovers {s : State} (h : s.cursor = s.cap) (b : Byte) (rest : State → State) :
    ∃ t, appendThen b rest s = .next t ∧ s.Recovered t .overflow :=
  ⟨_, appendThen_full h b rest, recovered_raise s .bufferOverflow⟩

theorem exec_sync1Hit (s : State) :
    exec .sync1Hit s = appendThen Config.sync1 (fun t => t.goto .awaitingSync2) s := rfl

theorem exec_sync2Hit (s : State) :
    exec .sync2Hit s = appendThen Config.sync2 (fun t => t.goto .awaitingType) s := rfl

theorem exec_type (b : Byte) (s : State) :
    exec (.type b) s = appendThen b (fun t => t.goto .awaitingLength) s := rfl

theorem exec_len (b : Byte) (s : State) :
    exec (.len b) s = appendThen b (fun t => (t.setRem b).goto (stateAfterCount b)) s := rfl

theorem exec_payload (b : Byte) (s : State) :
    exec (.payload b) s =
      appendThen b (fun t => (t.setRem (decrement t.rem)).goto (stateAfterCount (decrement t.rem))) s := rfl

/-- Settles O19: SYNC1_HIT is an `Append`, with room for the byte or on a full buffer. -/
theorem sync1HitAppendsSync1 : Obligations.Sync1HitAppendsSync1 :=
  ⟨fun _ => fetch_of,
    fun s h => ⟨_, (exec_sync1Hit s).trans (appendThen_room h _ _), appended_goto s _ _⟩,
    fun s h => exec_sync1Hit s ▸ appendThen_full_recovers h _ _⟩

/-- Settles O20: SYNC1_MISS leaves what a sync failure leaves. -/
theorem sync1MissDiscardsByte : Obligations.Sync1MissDiscardsByte :=
  ⟨fun _ _ hs hx hb => selectedWhen_sync1_miss hb ▸ fetch_of hs hx,
    fun s _ => ⟨_, rfl, recovered_raise s .syncFailure⟩⟩

/-- Settles O21: SYNC2_HIT is an `Append`, with room for the byte or on a full buffer. -/
theorem sync2HitAppendsSync2 : Obligations.Sync2HitAppendsSync2 :=
  ⟨fun _ => fetch_of,
    fun s h => ⟨_, (exec_sync2Hit s).trans (appendThen_room h _ _), appended_goto s _ _⟩,
    fun s h => exec_sync2Hit s ▸ appendThen_full_recovers h _ _⟩

/-- Settles O22: `0xBB` is one of the bytes that are not `0x66`, and the recovery is that of a sync failure. -/
theorem sync2MissStartsOver : Obligations.Sync2MissStartsOver :=
  ⟨fun _ _ hs hx hb => selectedWhen_sync2_miss hb ▸ fetch_of hs hx,
    fun s _ => ⟨_, rfl, recovered_raise s .syncFailure⟩⟩

/-- Settles O23: TYPE is an `Append` of whatever byte is offered. -/
theorem typeAppendsAnyByte : Obligations.TypeAppendsAnyByte :=
  ⟨fun _ _ => fetch_of,
    fun s b h => ⟨_, (exec_type b s).trans (appendThen_room h _ _), appended_goto s b _⟩,
    fun s b h => exec_type b s ▸ appendThen_full_recovers h _ _⟩

/-- Settles O24: the successor is the one of the counter just loaded. -/
theorem lenLoadsCounter : Obligations.LenLoadsCounter := by
  refine ⟨fun _ _ => fetch_of, fun s b h => ?_, fun s b h => exec_len b s ▸ appendThen_full_recovers h _ _⟩
  rw [exec_len, appendThen_room h, ← stateAfterCount_eq]
  exact ⟨_, rfl, appended_setRem_goto s b b _⟩

/-- The counter goes down by one, without wrap-around (R93). -/
theorem toNat_decrement {r : Byte} (h : r ≠ 0) : (decrement r).toNat + 1 = r.toNat := by
  rw [decrement_of_ne_zero h]
  bv_omega

/-- The last payload byte is the one taken with the counter at 1 (R88). -/
theorem stateAfterCount_decrement {r : Byte} (h : r ≠ 0) :
    stateAfterCount (decrement r) = if r = 1 then .awaitingChecksumLow else .awaitingPayload := by
  have hlast : decrement r = 0 ↔ r = 1 := by
    rw [decrement_of_ne_zero h]
    bv_omega
  simp only [stateAfterCount_eq, hlast]

/-- Settles O25: the counter tested is the one after the decrement, so 1 is the last. -/
theorem payloadCountsDown : Obligations.PayloadCountsDown := by
  refine ⟨fun _ _ => fetch_of, fun s b h hr => ?_,
    fun s b h => exec_payload b s ▸ appendThen_full_recovers h _ _⟩
  rw [exec_payload, appendThen_room h, ← stateAfterCount_decrement hr]
  exact ⟨_, rfl, toNat_decrement hr, appended_setRem_goto s b (decrement s.rem) _⟩

/-- Settles O27: CKLO writes `cklo` and the parser state. -/
theorem ckloKeepsLowByte : Obligations.CkloKeepsLowByte :=
  ⟨fun _ _ => fetch_of, fun _ _ => ⟨_, rfl, rfl, rfl, rfl, rfl, fun _ => rfl, rfl, rfl, rfl⟩⟩

/-- Settles O28: the statement's two sides are the model's received and computed checksum written out. -/
theorem ckhiAcceptsOrRejects : Obligations.CkhiAcceptsOrRejects :=
  ⟨fun _ _ => fetch_of,
    fun _ _ hc hm => ⟨_, execCkhi_accepts hc hm, rfl, rfl, rfl, rfl, rfl, fun _ => rfl, rfl, rfl⟩,
    fun s _ hc hm => ⟨_, execCkhi_rejects hc hm, recovered_raise s .checksumMismatch⟩⟩

/-! ### No byte available -/

/-- R81: a step without a byte takes its sample, shows idle outputs and writes nothing. -/
theorem step_noByte {s : State} (hs : s.st ≠ .reservedCode) (hx : s.pins.input = .noByte) :
    step s = .next (s.consume.emit .idle) := by
  rw [step_eq_exec, hx, selectedWhen_noByte hs]
  rfl

/-- R81 on the state's list of samples: the sample is taken, and only the outputs change. -/
theorem step_noByte_cons {s : State} {rest : List Pins} (hs : s.st ≠ .reservedCode)
    (hin : s.inputs = Input.noByte.pins :: rest) : step s = .next { s with inputs := rest, out := .idle } := by
  have hx : s.pins.input = .noByte := by
    rw [State.pins, hin]
    rfl
  rw [step_noByte hs hx, State.consume, hin]
  rfl

/-- R81, repeated. -/
theorem runSteps_noByte {s : State} (hs : s.st ≠ .reservedCode) (n : Nat) {rest : List Pins}
    (hin : s.inputs = List.replicate (n + 1) Input.noByte.pins ++ rest) :
    runSteps (n + 1) s = .next { s with inputs := rest, out := .idle } := by
  induction n generalizing s with
  | zero => exact runSteps_succ (step_noByte_cons hs hin)
  | succ n ih =>
    rw [runSteps_succ (step_noByte_cons hs hin)]
    exact ih hs rfl

/-- Settles O15: the run is an induction on the number of samples without a byte. -/
theorem nopWritesNothing : Obligations.NopWritesNothing :=
  ⟨fun _ hs hx => selectedWhen_noByte hs ▸ fetch_of rfl hx,
    fun _ => ⟨_, rfl, rfl, rfl, rfl, rfl, fun _ => rfl, rfl, rfl, rfl⟩,
    fun _ n _ hs hin => runSteps_noByte hs n hin⟩

end Sys2Proof.Machine

/-! PROOFS. The successor table (`41_frame_assembler.md` R91), from the inversion of a step. -/

namespace Sys2Proof.Machine

/-- With the cursor within the capacity, `Append` gives a next state. -/
theorem appendThen_total {s : State} (hc : s.cursor ≤ s.cap) (b : Byte) (rest : State → State) :
    ∃ t, appendThen b rest s = .next t := by
  rcases hc.eq_or_lt with h | h
  · exact ⟨_, appendThen_full h b rest⟩
  · exact ⟨_, appendThen_room h b rest⟩

/-- With the cursor within the capacity, CKHI gives a next state. -/
theorem execCkhi_total {s : State} (hc : s.cursor ≤ s.cap) (b : Byte) : ∃ t, execCkhi b s = .next t :=
  ⟨_, if_pos hc⟩

/-- With the cursor within the capacity every operation but RESERVED gives a next state. -/
theorem exec_total {s : State} (hc : s.cursor ≤ s.cap) {i : Instr} (hi : i ≠ .reserved) :
    ∃ t, exec i s = .next t := by
  cases i with
  | reserved => exact absurd rfl hi
  | reset | nop | sync1Miss _ | sync2Miss _ | cklo _ => exact ⟨_, rfl⟩
  | sync1Hit => exact exec_sync1Hit s ▸ appendThen_total hc _ _
  | sync2Hit => exact exec_sync2Hit s ▸ appendThen_total hc _ _
  | type b => exact exec_type b s ▸ appendThen_total hc _ _
  | len b => exact exec_len b s ▸ appendThen_total hc _ _
  | payload b => exact exec_payload b s ▸ appendThen_total hc _ _
  | ckhi b => exact execCkhi_total hc b

/-- RESERVED is selected in code 7 only (`30_encoding.md` R57). -/
theorem selectedWhen_ne_reserved {p : ParserState} (hp : p ≠ .reservedCode) (x : Input) :
    selectedWhen p x ≠ .reserved := by
  cases x with
  | reset => simp [selectedWhen]
  | noByte => simp [selectedWhen_noByte hp]
  | byte b =>
    cases p with
    | reservedCode => exact absurd rfl hp
    | awaitingSync1 | awaitingSync2 =>
      simp only [selectedWhen]
      split <;> simp
    | _ => simp [selectedWhen]

/-- The row of the table of `10_state.md` R21 that a state with the invariants meets. -/
theorem State.Inv.row_of {s : State} {p : ParserState} (h : s.Inv) (hs : s.st = p) : s.row p := hs ▸ h.row

/-- No state with the invariants is in code 7. -/
theorem State.Inv.st_ne_reserved {s : State} (h : s.Inv) : s.st ≠ .reservedCode := fun hs => h.row_of hs

/-- From a state with the invariants every step gives a next state, which is one of the cases of the inversion. -/
theorem State.Inv.step_performed {s : State} (h : s.Inv) :
    ∃ t, step s = .next t ∧ Performed s.consume s.pins.input t := by
  have hsel := selectedWhen_ne_reserved h.st_ne_reserved s.pins.input
  obtain ⟨t, ht⟩ := exec_total (s := s.consume) h.cursorFits hsel
  exact ⟨t, (step_eq_exec s).trans ht, performed_of_exec ht⟩

/-- The header always fits, so under the invariants a buffer is full only behind it (R113, `00_scope.md` R5). -/
theorem State.Inv.past_header_of_full {s : State} (h : s.Inv) (hc : s.cursor = s.cap) :
    s.st = .awaitingPayload ∨ s.st = .awaitingChecksumLow ∨ s.st = .awaitingChecksumHigh := by
  have hcap : 4 ≤ s.cap := h.capFits
  cases hs : s.st <;> have hrow := h.row_of hs <;> simp only [State.row] at hrow
  case awaitingPayload | awaitingChecksumLow | awaitingChecksumHigh => simp
  all_goals omega

/-- Under the invariants the counter is above 0 in AwaitingPayload (R93). -/
theorem State.Inv.rem_ne_zero {s : State} (h : s.Inv) (hs : s.st = .awaitingPayload) : s.rem ≠ 0 := by
  obtain ⟨-, hrem, -⟩ := h.row_of hs
  exact hrem

/-- Under the invariants the search starts with the cursor at 0. -/
theorem State.Inv.cursor_eq_zero {s : State} (h : s.Inv) (hs : s.st = .awaitingSync1) : s.cursor = 0 :=
  h.row_of hs

theorem stateAfterCount_ne_awaitingSync1 (r : Byte) : stateAfterCount r ≠ .awaitingSync1 := by
  rw [stateAfterCount_eq]
  split <;> simp

/-- R91: every way back to the search clears the cursor. -/
theorem Performed.cursor_eq_zero {s t : State} {x : Input} (hp : Performed s x t)
    (h0 : s.st = .awaitingSync1 → s.cursor = 0) (ht : t.st = .awaitingSync1) : t.cursor = 0 := by
  cases hp with
  | reset | overflow | sync1Miss | sync2Miss | accept | reject => rfl
  | nop => exact h0 ht
  | sync1Hit | sync2Hit | type | cklo => cases ht
  | len | payload => exact absurd ht (stateAfterCount_ne_awaitingSync1 _)

/-- Settles O38: each row of the table is one case of the inversion; the overflow belongs to AwaitingPayload. -/
theorem successorTable : Obligations.SuccessorTable := by
  intro s h
  obtain ⟨t, ht, hp⟩ := h.step_performed
  refine ⟨t, ht, hp.cursor_eq_zero h.cursor_eq_zero, ?_⟩
  generalize s.pins.input = x at hp ⊢
  cases hp with
  | reset => simp
  | nop => simp
  | overflow b hc hs =>
    have hst : s.st = .awaitingPayload := by
      rcases h.past_header_of_full hc with hst | hst | hst
      · exact hst
      all_goals simp [hst] at hs
    simp [hst, show s.cursor = s.cap from hc]
  | sync1Hit hs => simp [show s.st = _ from hs]
  | sync1Miss b hs hb => simpa [show s.st = _ from hs] using hb
  | sync2Hit hs => simp [show s.st = _ from hs]
  | sync2Miss b hs hb => simpa [show s.st = _ from hs] using hb
  | type b hs => simp [show s.st = _ from hs]
  | len b hs => simp [show s.st = _ from hs, stateAfterCount_eq]
  | payload b hs hc =>
    have hst : s.st = .awaitingPayload := hs
    have hroom : s.cursor ≠ s.cap := hc.ne
    have hlast : 1 < s.rem.toNat → s.rem ≠ 1 := by
      intro hlt heq
      simp [heq] at hlt
    simpa [hst, hroom, stateAfterCount_decrement (h.rem_ne_zero hst)] using fun (_ : s.cursor < s.cap) => hlast
  | cklo b hs => simp [show s.st = _ from hs]
  | accept b hs => simp [show s.st = _ from hs]
  | reject b hs => simp [show s.st = _ from hs]

end Sys2Proof.Machine

/-! PROOFS. The decode of a reading (`42_measurement_decode.md` R100 to R102), apart from the Assembler's steps. -/

namespace Sys2Proof.Machine

/-- The OR of R53 and R100 puts the high byte above the low one. -/
theorem littleEndian_eq_append (low high : Byte) : littleEndian low high = high ++ low := by
  rw [littleEndian, BitVec.append_def, BitVec.shiftLeftZeroExtend_eq, BitVec.setWidth'_eq]

/-- The bytes do not overlap, so the OR of R53 and R100 is a sum. -/
theorem toNat_littleEndian (low high : Byte) :
    (littleEndian low high).toNat = high.toNat * 256 + low.toNat := by
  rw [littleEndian_eq_append, BitVec.toNat_append, ← Nat.shiftLeft_add_eq_or_of_lt low.isLt, Nat.shiftLeft_eq]

/-- R100 for a frame that has a reading. -/
theorem decodeReading_of_typeMeas {buf : Nat → Byte} {n : Nat} (htype : buf 2 = Config.typeMeas) (hlen : 6 ≤ n) :
    decodeReading buf n = some (littleEndian (buf 4) (buf 5)) := if_pos ⟨htype, hlen⟩

/-- D16: no reading of a frame with fewer than two payload bytes. -/
theorem decodeReading_of_short (buf : Nat → Byte) {n : Nat} (hlen : n < 6) : decodeReading buf n = none :=
  if_neg fun ⟨_, h⟩ => hlen.not_ge h

/-- R101: no reading of an unrecognised type. -/
theorem decodeReading_of_type_ne {buf : Nat → Byte} (n : Nat) (htype : buf 2 ≠ Config.typeMeas) :
    decodeReading buf n = none := if_neg fun ⟨h, _⟩ => htype h

/-- R102: nothing is decoded after `Incomplete`. -/
theorem State.reading_of_incomplete {s : State} (h : s.out.result = .incomplete) : s.reading = none := by
  rw [State.reading, h]

/-- R102: the completed frame is decoded after `Complete`. -/
theorem State.reading_of_complete {s : State} {n : Nat} (h : s.out.result = .complete n) :
    s.reading = decodeReading s.rdData n := by
  rw [State.reading, h]

/-- Settles O54: the two conditions of R100, met together or failing one at a time. -/
theorem readingIsFirstTwoPayloadBytes : Obligations.ReadingIsFirstTwoPayloadBytes :=
  ⟨fun _ _ htype hlen => ⟨_, decodeReading_of_typeMeas htype hlen, toNat_littleEndian _ _⟩,
    fun buf _ => decodeReading_of_short buf, fun _ n => decodeReading_of_type_ne n⟩

/-- Settles O55: one case of the reading for each result of a step. -/
theorem readingOnlyOfCompleteFrames : Obligations.ReadingOnlyOfCompleteFrames :=
  fun _ => ⟨State.reading_of_incomplete, fun _ => State.reading_of_complete⟩

end Sys2Proof.Machine

/-! PROOFS. A step by its inversion, in both directions: a next state of `step` is a case of `Performed`, and each
case of `Performed` is a next state. What every case does to the buffer and the cursor is said once. -/

namespace Sys2Proof.Machine

/-- A next state of a step is one of the cases of the inversion. -/
theorem performed_of_step {s t : State} (h : step s = .next t) : Performed s.consume s.pins.input t :=
  performed_of_exec ((step_eq_exec s).symm.trans h)

/-- The inversion lists no case that cannot happen: each is what the selected operation leaves. -/
theorem exec_of_performed {s t : State} {x : Input} (h : Performed s x t) :
    exec (selectedWhen s.st x) s = .next t := by
  cases h with
  | reset => rfl
  | nop hs =>
    rw [selectedWhen_noByte hs]
    rfl
  | overflow b hc hs =>
    rcases hs with ⟨hs, rfl⟩ | ⟨hs, rfl⟩ | hs | hs | hs <;> rw [hs]
    · exact (exec_sync1Hit s).trans (appendThen_full hc _ _)
    · exact (exec_sync2Hit s).trans (appendThen_full hc _ _)
    · exact (exec_type b s).trans (appendThen_full hc _ _)
    · exact (exec_len b s).trans (appendThen_full hc _ _)
    · exact (exec_payload b s).trans (appendThen_full hc _ _)
  | sync1Miss b hs hb =>
    rw [hs, selectedWhen_sync1_miss hb]
    rfl
  | sync2Miss b hs hb =>
    rw [hs, selectedWhen_sync2_miss hb]
    rfl
  | sync1Hit hs hc =>
    rw [hs]
    exact (exec_sync1Hit s).trans (appendThen_room hc _ _)
  | sync2Hit hs hc =>
    rw [hs]
    exact (exec_sync2Hit s).trans (appendThen_room hc _ _)
  | type b hs hc =>
    rw [hs]
    exact (exec_type b s).trans (appendThen_room hc _ _)
  | len b hs hc =>
    rw [hs]
    exact (exec_len b s).trans (appendThen_room hc _ _)
  | payload b hs hc =>
    rw [hs]
    exact (exec_payload b s).trans (appendThen_room hc _ _)
  | cklo b hs =>
    rw [hs]
    rfl
  | accept b hs hc hm =>
    rw [hs]
    exact execCkhi_accepts hc hm
  | reject b hs hc hm =>
    rw [hs]
    exact execCkhi_rejects hc hm

/-- Every case of the inversion is a step. -/
theorem step_of_performed {s t : State} (h : Performed s.consume s.pins.input t) : step s = .next t :=
  (step_eq_exec s).trans (exec_of_performed h)

/-- No operation writes the capacity. -/
theorem Performed.cap_eq {s t : State} {x : Input} (h : Performed s x t) : t.cap = s.cap := by
  cases h <;> rfl

/-- An operation takes no sample: the step has taken its one before. -/
theorem Performed.inputs_eq {s t : State} {x : Input} (h : Performed s x t) : t.inputs = s.inputs := by
  cases h <;> rfl

/-- R31, R36, R38: an operation leaves the buffer alone, with the cursor as it was or cleared, or it stores the byte
offered at the cursor, within the capacity, and advances the cursor past it. -/
theorem Performed.keeps_or_stores {s t : State} {x : Input} (h : Performed s x t) :
    (t.buf = s.buf ∧ (t.cursor = s.cursor ∨ t.cursor = 0)) ∨
    (s.cursor < s.cap ∧ t.cursor = s.cursor + 1 ∧ ∃ b, x = .byte b ∧ t.buf = s.buf.write s.cursor b) := by
  cases h with
  | reset | overflow | sync1Miss | sync2Miss | accept | reject => exact .inl ⟨rfl, .inr rfl⟩
  | nop | cklo => exact .inl ⟨rfl, .inl rfl⟩
  | sync1Hit hs hc | sync2Hit hs hc | type b hs hc | len b hs hc | payload b hs hc =>
    exact .inr ⟨hc, rfl, _, rfl, rfl⟩

end Sys2Proof.Machine

/-! PROOFS. The invariants of the reachable states (`10_state.md` R21): each step keeps them, so no run from a state
that meets them stops. -/

namespace Sys2Proof.Machine

/-- A store is read back. -/
theorem holds_of_write {s t : State} {i : Nat} {b : Byte} (ht : t.buf = s.buf.write i b) : t.holds i b := by
  rw [State.holds, ht, Memory.read_write_same]

/-- A store leaves what is held elsewhere. -/
theorem holds_of_write_other {s t : State} {i j : Nat} {b c : Byte} (ht : t.buf = s.buf.write i b) (hj : j ≠ i)
    (h : s.holds j c) : t.holds j c := by
  rw [State.holds, ht, Memory.read_write_other _ _ hj, h]

/-- A store behind the sync positions leaves them as they are. -/
theorem syncHeld_of_write {s t : State} {i : Nat} {b : Byte} (hi : 2 ≤ i) (h : s.syncHeld)
    (ht : t.buf = s.buf.write i b) : t.syncHeld :=
  ⟨holds_of_write_other ht (by omega) h.1, holds_of_write_other ht (by omega) h.2⟩

/-- LEN and PAYLOAD go where the counter they leave says, and the row of R21 for that state holds: the cursor and the
counter add up to the frame's length. -/
theorem row_stateAfterCount {s : State} {r : Byte} (hr : s.rem = r) (hc : 4 ≤ s.cursor)
    (hsum : s.cursor + r.toNat = 4 + (s.memRead 3).toNat) (hsync : s.syncHeld) : s.row (stateAfterCount r) := by
  by_cases h : r = 0
  · subst h
    rw [stateAfterCount_zero]
    exact ⟨hsum, hr, hsync⟩
  · rw [stateAfterCount_of_ne_zero h]
    exact ⟨hc, hr ▸ h, hr ▸ hsum, hsync⟩

/-- The rows of R21 speak of the cursor, the counter and the buffer only. -/
theorem row_congr {s t : State} {p : ParserState} (hc : t.cursor = s.cursor) (hr : t.rem = s.rem)
    (hb : t.buf = s.buf) : t.row p ↔ s.row p := by
  have hm : t.memRead = s.memRead := State.memRead_congr hb
  cases p <;> simp only [State.row, State.syncHeld, State.holds, hc, hr, hb, hm]

/-- Taking the sample keeps the invariants, which do not speak of the inputs. -/
theorem State.Inv.consume {s : State} (h : s.Inv) : s.consume.Inv :=
  ⟨h.capFits, h.cursorFits, h.canonical, h.inside, h.written, (row_congr rfl rfl rfl).2 h.row⟩

/-- The successor meets the row of its own parser state. -/
theorem State.Inv.row_of_performed {s t : State} {x : Input} (h : s.Inv) (hp : Performed s x t) : t.row t.st := by
  cases hp with
  | reset | overflow | sync1Miss | sync2Miss | accept | reject => rfl
  | nop => exact (row_congr (s := s) rfl rfl rfl).2 h.row
  | sync1Hit hs =>
    have hc : s.cursor = 0 := h.row_of hs
    exact ⟨by simp [hc], holds_of_write (s := s) (by simp [hc])⟩
  | sync2Hit hs =>
    obtain ⟨hc, h0⟩ := h.row_of hs
    have hb : ((s.appendByte 0x66).goto .awaitingType).buf = s.buf.write 1 0x66 := by simp [hc]
    exact ⟨by simp [hc], holds_of_write_other hb Nat.zero_ne_one h0, holds_of_write hb⟩
  | type b hs =>
    obtain ⟨hc, hsync⟩ := h.row_of hs
    exact ⟨by simp [hc], syncHeld_of_write hc.ge hsync rfl⟩
  | len b hs =>
    obtain ⟨hc, hsync⟩ := h.row_of hs
    have hlen : (s.appendByte b).memRead 3 = b := by rw [State.memRead_appendByte, if_pos hc.symm]
    refine row_stateAfterCount rfl (by simp [hc]) ?_ (syncHeld_of_write (by omega) hsync rfl)
    change s.cursor + 1 + b.toNat = 4 + ((s.appendByte b).memRead 3).toNat
    rw [hlen, hc]
  | payload b hs =>
    obtain ⟨hc, hrem, hsum, hsync⟩ := h.row_of hs
    have hlen : (s.appendByte b).memRead 3 = s.memRead 3 := by rw [State.memRead_appendByte, if_neg (by omega)]
    have hcount := toNat_decrement hrem
    refine row_stateAfterCount rfl (Nat.le_succ_of_le hc) ?_ (syncHeld_of_write (by omega) hsync rfl)
    change s.cursor + 1 + (decrement s.rem).toNat = 4 + ((s.appendByte b).memRead 3).toNat
    rw [hlen]
    omega
  | cklo b hs => exact (row_congr (s := s) (p := .awaitingChecksumLow) rfl rfl rfl).2 (h.row_of hs)

/-- Every operation keeps the buffer canonical. -/
theorem Performed.keeps_wf {s t : State} {x : Input} (hp : Performed s x t) (h : s.buf.wf) : t.buf.wf := by
  rcases hp.keeps_or_stores with ⟨hb, -⟩ | ⟨-, -, b, -, hb⟩
  · rwa [hb]
  · rw [hb]
    exact Memory.write_wf h _ _

/-- Every operation keeps the buffer within the capacity. -/
theorem Performed.keeps_inside {s t : State} {x : Input} (hp : Performed s x t) (h : ∀ c ∈ s.buf, c.1 < s.cap) :
    ∀ c ∈ t.buf, c.1 < t.cap := by
  rw [hp.cap_eq]
  rcases hp.keeps_or_stores with ⟨hb, -⟩ | ⟨hc, -, b, -, hb⟩
  · rwa [hb]
  · intro c hm
    rw [hb] at hm
    rcases Memory.mem_write hm with rfl | hm
    · exact hc
    · exact h c hm

/-- Every operation keeps the cursor within the capacity. -/
theorem Performed.keeps_cursor_le_cap {s t : State} {x : Input} (hp : Performed s x t) (h : s.cursor ≤ s.cap) :
    t.cursor ≤ t.cap := by
  rw [hp.cap_eq]
  rcases hp.keeps_or_stores with ⟨-, hc | hc⟩ | ⟨hlt, hc, -⟩ <;> omega

/-- Every operation keeps the positions below the cursor written. -/
theorem Performed.keeps_written {s t : State} {x : Input} (hp : Performed s x t)
    (h : ∀ i < s.cursor, (s.buf.read i).isSome) : ∀ i < t.cursor, (t.buf.read i).isSome := by
  intro i hi
  rcases hp.keeps_or_stores with ⟨hb, hc | hc⟩ | ⟨-, hc, b, -, hb⟩
  · rw [hb]
    exact h i (hc ▸ hi)
  · omega
  · by_cases heq : i = s.cursor
    · simp [hb, heq]
    · rw [hb, Memory.read_write_other _ _ heq]
      exact h i (by omega)

/-- Every operation keeps the invariants. -/
theorem State.Inv.of_performed {s t : State} {x : Input} (h : s.Inv) (hp : Performed s x t) : t.Inv :=
  ⟨hp.cap_eq ▸ h.capFits, hp.keeps_cursor_le_cap h.cursorFits, hp.keeps_wf h.canonical, hp.keeps_inside h.inside,
    hp.keeps_written h.written, h.row_of_performed hp⟩

/-- Settles O34: taking the sample and performing the operation both keep the invariants. -/
theorem stepKeepsInvariants : Obligations.StepKeepsInvariants :=
  fun _ _ h ht => h.consume.of_performed (performed_of_step ht)

/-- Settles O35, by induction on the number of steps. -/
theorem nothingIsFatal : Obligations.NothingIsFatal := by
  intro s h k
  induction k generalizing s with
  | zero => exact ⟨s, rfl⟩
  | succ k ih =>
    obtain ⟨t, ht, -⟩ := h.step_performed
    rw [runSteps_succ ht]
    exact ih t (stepKeepsInvariants s t h ht)

/-- Settles O36: the operation keeps each of the two properties, and neither speaks of the sample taken. -/
theorem stepKeepsBufferCanonical : Obligations.StepKeepsBufferCanonical :=
  fun _ _ ht => ⟨(performed_of_step ht).keeps_wf, (performed_of_step ht).keeps_inside⟩

/-- At reset nothing is written and the cursor is at 0, so the header's room is all the invariants ask for. -/
theorem inv_resetOf {n : Nat} (hn : 4 ≤ n) : (State.resetOf n).Inv :=
  ⟨hn, Nat.zero_le n, .nil, by simp, by simp, rfl⟩

/-- Settles O33: the open capacity lies `HDR` or more above 0. -/
theorem resetMeetsInvariants : Obligations.ResetMeetsInvariants :=
  ⟨fun _ => inv_resetOf, inv_resetOf (Nat.le_add_left _ _)⟩

/-- Settles O31: what `State.resetOf` sets, and the open capacity, which lies `HDR` or more above 0. -/
theorem resetStartsSearch : Obligations.ResetStartsSearch :=
  ⟨fun _ => ⟨rfl, rfl, rfl, rfl, fun _ => rfl⟩, rfl, Nat.le_add_left _ _⟩

/-- Settles O32: the two sides of D5. -/
theorem constructionNeedsHeaderRoom : Obligations.ConstructionNeedsHeaderRoom :=
  ⟨fun _ hn => if_pos hn, fun _ hn => if_neg hn.not_ge⟩

end Sys2Proof.Machine

/-! PROOFS. The laws of the Checksum Engine behind R75, R76 and R94 (e): the shift step loses nothing, so neither does
a byte step, and a register whose low bits are clear is only shifted. -/

namespace Sys2Proof.Machine

/-- The shift step loses nothing: bit 15 of the result tells the bit shifted out. -/
theorem crcBit_injective : Function.Injective crcBit := by
  intro q r h
  have hbit : q.getLsbD 0 = r.getLsbD 0 := by rw [← getMsbD_crcBit q, ← getMsbD_crcBit r, h]
  have hshift : q >>> 1 = r >>> 1 := by
    unfold crcBit at h
    rw [hbit] at h
    split at h
    · exact (BitVec.xor_left_inj _).1 h
    · exact h
  refine BitVec.eq_of_getLsbD_eq fun i _ => ?_
  cases i with
  | zero => exact hbit
  | succ i => simpa [Nat.add_comm] using congrArg (fun v => v.getLsbD i) hshift

theorem crcShift_injective (n : Nat) : Function.Injective (crcShift n) := by
  induction n with
  | zero => exact fun _ _ h => h
  | succ n ih => exact ih.comp crcBit_injective

/-- One byte step tells the registers before it apart. -/
theorem crcByte_injective_register (b : Byte) : Function.Injective fun r => crcByte r b :=
  fun _ _ h => (BitVec.xor_left_inj _).1 (crcShift_injective 8 h)

/-- One byte step tells the bytes apart. -/
theorem crcByte_injective_byte (r : Word16) : Function.Injective (crcByte r) := by
  intro a b h
  have hab : a.setWidth 16 = b.setWidth 16 := (BitVec.xor_right_inj _).1 (crcShift_injective 8 h)
  simpa using congrArg (BitVec.setWidth 8) hab

/-- Absorbing the same bytes tells the registers before them apart. -/
theorem foldl_crcByte_injective (s : List Byte) : Function.Injective fun r => s.foldl crcByte r := by
  induction s with
  | nil => exact fun _ _ h => h
  | cons b s ih => exact ih.comp (crcByte_injective_register b)

/-- Settles O5: the registers agree after the changed byte, because the bytes behind it are the same. -/
theorem checksumTellsOneChangedByte : Obligations.ChecksumTellsOneChangedByte := by
  intro before after a b h
  simp only [crc16, List.foldl_append, List.foldl_cons] at h
  exact crcByte_injective_byte _ (foldl_crcByte_injective after h)

/-- As long as the bits shifted out are 0, the shift steps only shift. -/
theorem crcShift_of_low_clear {n : Nat} {r : Word16} (h : ∀ i < n, r.getLsbD i = false) :
    crcShift n r = r >>> n := by
  induction n generalizing r with
  | zero => simp
  | succ n ih =>
    rw [crcShift_succ, crcBit_of_bit_zero_clear (h 0 n.succ_pos), ih, ← BitVec.shiftRight_add, Nat.add_comm]
    intro i hi
    simpa [Nat.add_comm] using h (i + 1) (Nat.succ_lt_succ hi)

/-- The received checksum of the two halves of a word is the word (R53). -/
theorem littleEndian_extractLsb' (c : Word16) : littleEndian (c.extractLsb' 0 8) (c.extractLsb' 8 8) = c := by
  rw [littleEndian_eq_append]
  exact BitVec.extractLsb'_append_extractLsb'

/-- A register that absorbs its own low byte is left with its high byte. -/
theorem crcByte_low (low high : Byte) : crcByte (littleEndian low high) low = high.setWidth 16 := by
  have hxor : littleEndian low high ^^^ low.setWidth 16 = high.setWidth 16 <<< 8 := by
    ext i hi
    by_cases h : i < 8
    · simp [littleEndian, h]
    · simp [littleEndian, h, BitVec.getLsbD_of_ge low i (Nat.le_of_not_lt h)]
  rw [crcByte, hxor, crcShift_of_low_clear]
  · ext i hi
    by_cases h : i < 8
    · simp [show 8 + i < 16 by omega]
    · simp [BitVec.getLsbD_of_ge high i (Nat.le_of_not_lt h)]
  · intro i hi
    simp [hi]

/-- A register that holds a byte in its low half absorbs it to 0. -/
theorem crcByte_self (b : Byte) : crcByte (b.setWidth 16) b = 0 := by
  rw [crcByte, BitVec.xor_self, crcShift_of_low_clear (by simp)]
  simp

/-- Settles O4: the low byte leaves the high byte in the register, which the high byte then clears. -/
theorem checksumOfSelfCheckedIsZero : Obligations.ChecksumOfSelfCheckedIsZero := by
  intro s
  have hlow := crcByte_low ((crc16 s).extractLsb' 0 8) ((crc16 s).extractLsb' 8 8)
  rw [littleEndian_extractLsb'] at hlow
  rw [List.append_cons, crc16_concat, crc16_concat, hlow, crcByte_self]

/-- At the cursor of AwaitingType the domain is empty. -/
theorem checksumDomain_of_cursor_two {s : State} (h : s.cursor = 2) : s.checksumDomain = [] := by
  rw [State.checksumDomain, h]
  rfl

/-- An append within the domain is an append to the domain. -/
theorem checksumDomain_appendByte {s : State} (h : 2 ≤ s.cursor) (b : Byte) :
    (s.appendByte b).checksumDomain = s.checksumDomain ++ [b] := by
  obtain ⟨n, hn⟩ := Nat.exists_eq_add_of_le h
  have hkept : (s.appendByte b).bufRange 2 n = s.bufRange 2 n :=
    State.bufRange_congr fun i _ hi => by rw [State.memRead_appendByte, if_neg (by omega)]
  have hlast : (s.appendByte b).memRead (2 + n) = b := by rw [State.memRead_appendByte, if_pos hn.symm]
  rw [State.checksumDomain, State.checksumDomain, State.appendByte_cursor, hn,
    show 2 + n + 1 - 2 = n + 1 by omega, show 2 + n - 2 = n by omega, State.bufRange_succ,
    hkept, hlast]

/-- Settles O6: the domain starts empty and grows by the byte appended. -/
theorem checksumGrowsWithAppends : Obligations.ChecksumGrowsWithAppends := by
  refine ⟨fun s h => ?_, fun s b h => ?_⟩
  · rw [State.computedChecksum, checksumDomain_of_cursor_two h]
    rfl
  · rw [State.computedChecksum, checksumDomain_appendByte h, crc16_concat]
    rfl

/-- Settles O29: the two bytes stand beside each other. -/
theorem receivedChecksumIsHighOverLow : Obligations.ReceivedChecksumIsHighOverLow := by
  refine fun s b => ⟨toNat_littleEndian s.cklo b, ?_, ?_⟩ <;>
    rw [State.receivedChecksum, littleEndian_eq_append]
  · exact BitVec.extractLsb'_append_eq_right
  · exact BitVec.extractLsb'_append_eq_left

end Sys2Proof.Machine

/-! PROOFS. Streams of bytes fed to a searching parser (`41_frame_assembler.md` R94): garbage, frames that fit, frames
with a changed byte and frames too long. What the parser holds after the first `k` bytes of a frame is said once. -/

namespace Sys2Proof.Machine

/-- A run made one step longer. -/
theorem runSteps_concat {k : Nat} {s t u : State} (h : runSteps k s = .next t) (hu : step t = .next u) :
    runSteps (k + 1) s = .next u := by
  rw [runSteps_add h, runSteps_succ hu, runSteps_zero]

theorem byteStream_append (a b : List Byte) : byteStream (a ++ b) = byteStream a ++ byteStream b := by
  simp [byteStream, stream]

/-- The coming sample of a byte stream offers its first byte. -/
theorem input_of_byteStream {s : State} {b : Byte} {bs : List Byte} {rest : List Pins}
    (h : s.inputs = byteStream (b :: bs) ++ rest) : s.pins.input = .byte b := by
  rw [State.pins, h]
  rfl

/-- Once the coming sample is taken, the rest of a byte stream is to come. -/
theorem consume_byteStream {s : State} {b : Byte} {bs : List Byte} {rest : List Pins}
    (h : s.inputs = byteStream (b :: bs) ++ rest) : s.consume.inputs = byteStream bs ++ rest := by
  rw [State.consume_inputs, h]
  rfl

/-- The bytes of a range, one by one. -/
@[simp] theorem State.getElem_bufRange (s : State) (first count i : Nat) (h : i < (s.bufRange first count).length) :
    (s.bufRange first count)[i] = s.memRead (first + i) := by
  simp [State.bufRange]

/-! ### Garbage -/

/-- R83: a byte that is not `0xBB` leaves a searching parser as it is, its sample taken. -/
theorem step_garbage {s : State} {b : Byte} {bs : List Byte} {rest : List Pins} (hs : s.st = .awaitingSync1)
    (hc : s.cursor = 0) (hb : b ≠ 0xBB) (hin : s.inputs = byteStream (b :: bs) ++ rest) :
    step s = .next { s with inputs := byteStream bs ++ rest, out := .idle } := by
  have hp : Performed s.consume s.pins.input (((s.consume.setCursor 0).goto .awaitingSync1).emit .idle) :=
    input_of_byteStream hin ▸ .sync1Miss b hs hb
  rw [step_of_performed hp, ← consume_byteStream hin, ← hs, ← hc]
  rfl

/-- R83, repeated. -/
theorem runSteps_garbage {s : State} {b : Byte} {bs : List Byte} {rest : List Pins} (hs : s.st = .awaitingSync1)
    (hc : s.cursor = 0) (hb : ∀ c ∈ b :: bs, c ≠ 0xBB) (hin : s.inputs = byteStream (b :: bs) ++ rest) :
    runSteps (b :: bs).length s = .next { s with inputs := rest, out := .idle } := by
  obtain ⟨hfirst, hrest⟩ := List.forall_mem_cons.1 hb
  have hstep := step_garbage hs hc hfirst hin
  induction bs generalizing s b with
  | nil => exact runSteps_succ hstep
  | cons c bs ih =>
    obtain ⟨hc', hrest'⟩ := List.forall_mem_cons.1 hrest
    rw [List.length_cons, runSteps_succ hstep]
    exact ih hs hc hrest rfl hc' hrest' (step_garbage hs hc hc' rfl)

/-- Settles O47: garbage of at least one byte, so the idle outputs have replaced the earlier ones. -/
theorem garbageLeavesSearch : Obligations.GarbageLeavesSearch := by
  intro s garbage rest hs hc hne hb hin
  cases garbage with
  | nil => exact absurd rfl hne
  | cons b bs => exact runSteps_garbage hs hc hb hin

/-! ### The first bytes of a frame -/

/-- The bytes of a frame that are appended to the buffer: all but its checksum (`30_encoding.md` R50). -/
def storedBytes (type : Byte) (payload : List Byte) : List Byte :=
  Config.sync1 :: Config.sync2 :: frameDomain type payload

theorem frameWith_eq_storedBytes_append (type low high : Byte) (payload : List Byte) :
    frameWith type payload low high = storedBytes type payload ++ [low, high] := rfl

@[simp] theorem length_storedBytes (type : Byte) (payload : List Byte) :
    (storedBytes type payload).length = 4 + payload.length := by
  simp [storedBytes, frameDomain]
  omega

/-- The parser state after the first `k` bytes of a frame, with the counter at `rem` (R82 to R88). -/
def stateAfterBytes (rem : Byte) : Nat → ParserState
  | 0 => .awaitingSync1
  | 1 => .awaitingSync2
  | 2 => .awaitingType
  | 3 => .awaitingLength
  | _ + 4 => stateAfterCount rem

/-- What the parser holds after the first `k` stored bytes of a frame, with `tail` to come behind them. -/
structure State.Receiving (t : State) (type : Byte) (payload : List Byte) (tail : List Pins) (k : Nat) : Prop where
  cursor : t.cursor = k
  st : t.st = stateAfterBytes t.rem k
  rem : 4 ≤ k → t.rem.toNat + k = 4 + payload.length
  buf : ∀ i < k, t.buf.read i = (storedBytes type payload)[i]?
  inputs : t.inputs = byteStream ((storedBytes type payload).drop k) ++ tail

section Receiving
variable {t : State} {type : Byte} {payload : List Byte} {tail : List Pins} {k : Nat}

/-- While stored bytes are still to come, the first of them stands at the head of the stream. -/
theorem State.Receiving.inputs_cons (h : t.Receiving type payload tail k)
    (hk : k < (storedBytes type payload).length) :
    t.inputs = byteStream ((storedBytes type payload)[k] :: (storedBytes type payload).drop (k + 1)) ++ tail := by
  rw [h.inputs, List.drop_eq_getElem_cons hk]

/-- Behind the header, with payload to come, the parser awaits payload and the counter is above 0. -/
theorem State.Receiving.awaits_payload (h : t.Receiving type payload tail k) (h4 : 4 ≤ k)
    (hk : k < 4 + payload.length) : t.st = .awaitingPayload ∧ t.rem ≠ 0 := by
  have hrem : t.rem ≠ 0 := by
    intro h0
    have hsum : k = 4 + payload.length := by simpa [h0] using h.rem h4
    omega
  obtain ⟨n, rfl⟩ := Nat.exists_eq_add_of_le' h4
  exact ⟨h.st.trans (stateAfterCount_of_ne_zero hrem), hrem⟩

/-- With room, the operation selected appends the coming stored byte; LEN loads the counter and PAYLOAD counts down. -/
theorem State.Receiving.appends (h : t.Receiving type payload tail k) (hlen : payload.length ≤ 255)
    (hk : k < (storedBytes type payload).length) (hroom : k < t.cap) :
    ∃ u, Performed t.consume (.byte (storedBytes type payload)[k]) u ∧
      t.consume.Appended u (storedBytes type payload)[k] (stateAfterBytes u.rem (k + 1)) u.rem ∧
      (4 ≤ k + 1 → u.rem.toNat + (k + 1) = 4 + payload.length) := by
  have hc : t.consume.cursor < t.consume.cap := h.cursor ▸ hroom
  match k, h with
  | 0, h => exact ⟨_, .sync1Hit h.st hc, appended_goto _ _ _, by omega⟩
  | 1, h => exact ⟨_, .sync2Hit h.st hc, appended_goto _ _ _, by omega⟩
  | 2, h => exact ⟨_, .type _ h.st hc, appended_goto _ _ _, by omega⟩
  | 3, h =>
    refine ⟨_, .len _ h.st hc, appended_setRem_goto _ _ _ _, fun _ => ?_⟩
    have hload : (BitVec.ofNat 8 payload.length).toNat = payload.length :=
      BitVec.toNat_ofNat .. ▸ Nat.mod_eq_of_lt (by omega)
    exact (congrArg (· + 4) hload).trans (Nat.add_comm _ _)
  | n + 4, h =>
    rw [length_storedBytes] at hk
    obtain ⟨hs, hrem⟩ := h.awaits_payload (by omega) hk
    refine ⟨_, .payload _ hs hc, appended_setRem_goto _ _ _ _, fun _ => ?_⟩
    have hcount := toNat_decrement hrem
    have hsum := h.rem (by omega)
    change (decrement t.rem).toNat + (n + 4 + 1) = 4 + payload.length
    omega

/-- One more byte of the frame, with room for it. -/
theorem State.Receiving.step_next (h : t.Receiving type payload tail k) (hlen : payload.length ≤ 255)
    (hk : k < 4 + payload.length) (hroom : k < t.cap) :
    ∃ u, step t = .next u ∧ u.Receiving type payload tail (k + 1) ∧ u.cap = t.cap ∧ u.out = .idle := by
  have hk' : k < (storedBytes type payload).length := by rwa [length_storedBytes]
  have hin := h.inputs_cons hk'
  obtain ⟨u, hp, happ, hrem⟩ := h.appends hlen hk' hroom
  refine ⟨u, step_of_performed (input_of_byteStream hin ▸ hp), ⟨?_, happ.st, hrem, ?_, ?_⟩, happ.cap, happ.out⟩
  · rw [happ.cursor, State.consume_cursor, h.cursor]
  · intro i hi
    obtain ⟨hsame, hother⟩ := happ.buf
    rw [State.consume_cursor, h.cursor] at hsame hother
    by_cases heq : i = k
    · rw [heq, hsame, List.getElem?_eq_getElem hk']
    · rw [hother i heq]
      exact h.buf i (by omega)
  · rw [happ.inputs, consume_byteStream hin]

end Receiving

/-- The wire of a frame in the coming samples of a searching parser: nothing of it is received yet. -/
theorem receiving_zero {s : State} {type low high : Byte} {payload : List Byte} {rest : List Pins}
    (hs : s.st = .awaitingSync1) (hc : s.cursor = 0)
    (hin : s.inputs = byteStream (frameWith type payload low high) ++ rest) :
    s.Receiving type payload (byteStream [low, high] ++ rest) 0 :=
  ⟨hc, hs, by omega, by omega, by
    rw [hin, frameWith_eq_storedBytes_append, byteStream_append, List.append_assoc, List.drop_zero]⟩

/-- The stored bytes of a frame, as many as have room, are received without an output. -/
theorem receives_stored_bytes {s : State} {type : Byte} {payload : List Byte} {tail : List Pins}
    (h : s.Receiving type payload tail 0) (hlen : payload.length ≤ 255) {k : Nat} (hk : k ≤ 4 + payload.length)
    (hroom : k ≤ s.cap) :
    ∃ t, runSteps k s = .next t ∧ t.Receiving type payload tail k ∧ t.cap = s.cap ∧ (0 < k → t.out = .idle) := by
  induction k with
  | zero => exact ⟨s, rfl, h, rfl, fun h0 => absurd h0 (lt_irrefl 0)⟩
  | succ k ih =>
    obtain ⟨t, hrun, hrecv, hcap, -⟩ := ih (Nat.le_of_succ_le hk) (Nat.le_of_succ_le hroom)
    obtain ⟨u, hu, hrecv', hcap', hout⟩ := hrecv.step_next hlen hk (hcap ▸ hroom)
    exact ⟨u, runSteps_concat hrun hu, hrecv', hcap'.trans hcap, fun _ => hout⟩

/-- Settles O49: the first `CAP` bytes are received, and the next finds the buffer full. -/
theorem longFrameOverflowsAtCapacity : Obligations.LongFrameOverflowsAtCapacity := by
  intro s type low high payload rest hs hc hlen hcap hlong hin
  have h0 := receiving_zero hs hc hin
  refine ⟨fun k hpos hk => ?_, ?_⟩
  · obtain ⟨t, hrun, -, -, hout⟩ := receives_stored_bytes h0 hlen (hk.trans hlong.le) hk
    exact ⟨t, hrun, hout hpos⟩
  · obtain ⟨t, hrun, hrecv, hcap', -⟩ := receives_stored_bytes h0 hlen hlong.le le_rfl
    obtain ⟨hpay, -⟩ := hrecv.awaits_payload hcap hlong
    have hin' := hrecv.inputs_cons (by rwa [length_storedBytes])
    have hp : Performed t.consume t.pins.input (raise .bufferOverflow t.consume) :=
      input_of_byteStream hin' ▸ .overflow _ (hrecv.cursor.trans hcap'.symm) (by simp [hpay])
    exact ⟨_, runSteps_concat hrun (step_of_performed hp), rfl, rfl, rfl, hrecv.rem hcap, hrecv.buf⟩

/-! ### The checksum of a frame -/

/-- What the parser holds before the last byte of a frame that fits. -/
structure State.Received (t : State) (type : Byte) (payload : List Byte) (low high : Byte) (rest : List Pins) :
    Prop where
  fits : t.cursor ≤ t.cap
  cursor : t.cursor = 4 + payload.length
  st : t.st = .awaitingChecksumHigh
  cklo : t.cklo = low
  buf : ∀ i < 4 + payload.length, t.buf.read i = (storedBytes type payload)[i]?
  inputs : t.inputs = byteStream [high] ++ rest

section Received
variable {s t : State} {type low high : Byte} {payload : List Byte} {rest : List Pins}

/-- Behind the last stored byte, CKLO takes the low byte of the checksum. -/
theorem State.Receiving.step_cklo (h : t.Receiving type payload (byteStream [low, high] ++ rest) (4 + payload.length))
    (hfits : 4 + payload.length ≤ t.cap) :
    ∃ u, step t = .next u ∧ u.Received type payload low high rest ∧ u.out = .idle := by
  have hst : t.st = .awaitingChecksumLow := by
    have hrem : t.rem = 0 := BitVec.eq_of_toNat_eq (by simpa using h.rem (by omega))
    rw [h.st, Nat.add_comm, hrem]
    exact stateAfterCount_zero
  have hin : t.inputs = byteStream (low :: [high]) ++ rest := by
    rw [h.inputs, List.drop_eq_nil_of_le (length_storedBytes ..).le]
    rfl
  have hp : Performed t.consume t.pins.input (((t.consume.setCklo low).goto .awaitingChecksumHigh).emit .idle) :=
    input_of_byteStream hin ▸ .cklo low hst
  exact ⟨_, step_of_performed hp, ⟨h.cursor.trans_le hfits, h.cursor, rfl, rfl, h.buf, consume_byteStream hin⟩, rfl⟩

/-- A frame that fits is received up to its last byte without an output. -/
theorem received_before_last_byte (h : s.Receiving type payload (byteStream [low, high] ++ rest) 0)
    (hlen : payload.length ≤ 255) (hfits : 4 + payload.length ≤ s.cap) :
    ∃ t, runSteps (5 + payload.length) s = .next t ∧ t.Received type payload low high rest ∧ t.out = .idle := by
  obtain ⟨t, hrun, hrecv, hcap, -⟩ := receives_stored_bytes h hlen le_rfl hfits
  obtain ⟨u, hu, hlast⟩ := hrecv.step_cklo (hcap ▸ hfits)
  exact ⟨u, (Nat.add_right_comm 4 1 _) ▸ runSteps_concat hrun hu, hlast⟩

/-- Every step before the last byte of a frame that fits has idle outputs. -/
theorem idle_before_last_byte (h : s.Receiving type payload (byteStream [low, high] ++ rest) 0)
    (hlen : payload.length ≤ 255) (hfits : 4 + payload.length ≤ s.cap) {k : Nat} (hpos : 0 < k)
    (hk : k < 6 + payload.length) : ∃ t, runSteps k s = .next t ∧ t.out = .idle := by
  by_cases hstored : k ≤ 4 + payload.length
  · obtain ⟨t, hrun, -, -, hout⟩ := receives_stored_bytes h hlen hstored (hstored.trans hfits)
    exact ⟨t, hrun, hout hpos⟩
  · obtain ⟨t, hrun, -, hout⟩ := received_before_last_byte h hlen hfits
    exact ⟨t, (show k = 5 + payload.length by omega) ▸ hrun, hout⟩

/-- The checksum domain of a received frame is the frame's own (R73). -/
theorem State.Received.checksumDomain_eq (h : t.Received type payload low high rest) :
    t.checksumDomain = frameDomain type payload := by
  have hdom : t.checksumDomain = t.bufRange 2 (payload.length + 2) := by
    rw [State.checksumDomain, h.cursor, show 4 + payload.length - 2 = payload.length + 2 by omega]
  rw [hdom]
  refine List.ext_getElem (by simp [frameDomain]) fun i hi hi' => ?_
  rw [State.length_bufRange] at hi
  have hread := h.buf (i + 2) (by omega)
  rw [storedBytes, List.getElem?_cons_succ, List.getElem?_cons_succ, List.getElem?_eq_getElem hi'] at hread
  rw [State.getElem_bufRange, Nat.add_comm 2 i, State.memRead_of_read hread]

/-- CKHI compares the checksum that came with the frame to the one of its domain. -/
theorem State.Received.checksums (h : t.Received type payload low high rest) :
    t.consume.receivedChecksum high = littleEndian low high ∧
      t.consume.computedChecksum = crc16 (frameDomain type payload) :=
  ⟨congrArg (littleEndian · high) h.cklo, congrArg crc16 h.checksumDomain_eq⟩

/-- The last byte of a frame whose checksum matches. -/
theorem State.Received.step_accept (h : t.Received type payload low high rest)
    (hm : littleEndian low high = crc16 (frameDomain type payload)) : step t = .next t.consume.accept := by
  obtain ⟨hreceived, hcomputed⟩ := h.checksums
  exact step_of_performed (input_of_byteStream h.inputs ▸
    .accept high h.st h.fits (hreceived.trans (hm.trans hcomputed.symm)))

/-- The last byte of a frame whose checksum does not match. -/
theorem State.Received.step_reject (h : t.Received type payload low high rest)
    (hm : littleEndian low high ≠ crc16 (frameDomain type payload)) :
    step t = .next (raise .checksumMismatch t.consume) := by
  obtain ⟨hreceived, hcomputed⟩ := h.checksums
  exact step_of_performed (input_of_byteStream h.inputs ▸
    .reject high h.st h.fits (hreceived.trans_ne (hm.trans_eq hcomputed.symm)))

end Received

/-- Settles O46: the checksum received is the one the frame was built with. -/
theorem validFrameCompletesOnce : Obligations.ValidFrameCompletesOnce := by
  intro s type payload rest hs hc hlen hfits hin
  have h0 := receiving_zero hs hc hin
  obtain ⟨t, hrun, hlast, -⟩ := received_before_last_byte h0 hlen hfits
  refine ⟨fun k => idle_before_last_byte h0 hlen hfits, ⟨t, hrun, hlast.st⟩, t.consume.accept, ?_, ?_, rfl, rfl,
    consume_byteStream hlast.inputs, hlast.buf⟩
  · rw [Nat.add_right_comm 5 1]
    exact runSteps_concat hrun (hlast.step_accept (littleEndian_extractLsb' _))
  · rw [State.accept_out, State.consume_cursor, hlast.cursor]

/-- A changed Type or payload byte changes the checksum of the domain. -/
theorem crc16_frameDomain_ne {type type' : Byte} {payload payload' : List Byte}
    (h : type' ≠ type ∧ payload' = payload ∨
      type' = type ∧ ∃ before a b after, a ≠ b ∧ payload = before ++ a :: after ∧ payload' = before ++ b :: after) :
    crc16 (frameDomain type payload) ≠ crc16 (frameDomain type' payload') := by
  intro heq
  rcases h with ⟨hne, rfl⟩ | ⟨rfl, before, a, b, after, hne, rfl, rfl⟩
  · exact hne (checksumTellsOneChangedByte [] _ _ _ heq).symm
  · have hlen : (before ++ a :: after).length = (before ++ b :: after).length := by simp
    rw [frameDomain, frameDomain, hlen] at heq
    exact hne (checksumTellsOneChangedByte (_ :: _ :: before) after a b heq)

/-- Settles O48: the frame is received like any other, and its checksum is not the one of the bytes received. -/
theorem oneChangedByteIsRejected : Obligations.OneChangedByteIsRejected := by
  intro s type type' payload payload' rest hs hc hlen hfits hchange hin
  have hsame : payload'.length = payload.length := by
    rcases hchange with ⟨-, rfl⟩ | ⟨-, before, a, b, after, -, rfl, rfl⟩ <;> simp
  rw [← hsame] at hlen hfits ⊢
  have h0 := receiving_zero hs hc hin
  obtain ⟨t, hrun, hlast, -⟩ := received_before_last_byte h0 hlen hfits
  refine ⟨fun k => idle_before_last_byte h0 hlen hfits, raise .checksumMismatch t.consume, ?_, rfl, rfl, rfl,
    consume_byteStream hlast.inputs⟩
  rw [Nat.add_right_comm 5 1]
  exact runSteps_concat hrun
    (hlast.step_reject ((littleEndian_extractLsb' _).trans_ne (crc16_frameDomain_ne hchange)))

end Sys2Proof.Machine

/-! PROOFS. The decoder and the encoder (`30_encoding.md` R54 to R58). Every 13-bit word is the selector word of a
parser state and a sample, so the decoder is known from what the map selects. -/

namespace Sys2Proof.Machine

/-- Every code of three bits is that of a parser state. -/
theorem code_ofCode (c : BitVec 3) : (ParserState.ofCode c).code = c := by
  revert c
  decide

/-- One bit of a word, cut out of it. -/
theorem ofBool_getLsbD (w : SelectorWord) (i : Nat) : BitVec.ofBool (w.getLsbD i) = w.extractLsb' i 1 := by
  ext j hj
  obtain rfl : j = 0 := by omega
  simp

/-- Every 13-bit word is the selector word of its parser state and its sample (R54). -/
theorem selector_of_word (w : SelectorWord) : selector (parserStateOfWord w) (pinsOfWord w) = w := by
  rw [selector, parserStateOfWord, code_ofCode]
  change BitVec.ofBool (w.getLsbD 12) ++ w.extractLsb' 9 3 ++ BitVec.ofBool (w.getLsbD 8) ++ w.extractLsb' 0 8 = w
  rw [ofBool_getLsbD, ofBool_getLsbD,
    BitVec.extractLsb'_append_extractLsb'_eq_extractLsb' (start₂ := 12) (len₁ := 3) rfl,
    BitVec.extractLsb'_append_extractLsb'_eq_extractLsb' (start₂ := 9) (len₁ := 1) rfl]
  exact BitVec.extractLsb'_append_extractLsb'

/-- The map selects well-formed operations only: a MISS row stands behind its HIT row (R54). -/
theorem wellFormed_selectedWhen (p : ParserState) (x : Input) : wellFormed (selectedWhen p x) = true := by
  cases x with
  | reset => rfl
  | noByte => cases p <;> rfl
  | byte b =>
    cases p with
    | awaitingSync1 => by_cases h : isSync1 b <;> simp [selectedWhen, wellFormed, h]
    | awaitingSync2 => by_cases h : isSync2 b <;> simp [selectedWhen, wellFormed, h]
    | _ => rfl

/-- Settles O7: the word is the selector word of a parser state and a sample. -/
theorem everyWordSelectsOneOperation : Obligations.EveryWordSelectsOneOperation := fun w =>
  ⟨_, (congrArg decode (selector_of_word w)).symm.trans (decode_selector _ _), wellFormed_selectedWhen _ _⟩

/-- Settles O12: the law of the decoder that the step rests on. -/
theorem mapSelectsByStateAndInput : Obligations.MapSelectsByStateAndInput := decode_selector

/-! ### Encoding and decoding -/

/-- The parser state whose row an operation stands in; RESET and NOP stand in every row (R56). -/
def homeState : Instr → ParserState
  | .reset | .nop | .sync1Hit | .sync1Miss _ => .awaitingSync1
  | .reserved => .reservedCode
  | .sync2Hit | .sync2Miss _ => .awaitingSync2
  | .type _ => .awaitingType
  | .len _ => .awaitingLength
  | .payload _ => .awaitingPayload
  | .cklo _ => .awaitingChecksumLow
  | .ckhi _ => .awaitingChecksumHigh

/-- The input that selects an operation in its row (R56). -/
def homeInput : Instr → Input
  | .reset => .reset
  | .reserved | .nop => .noByte
  | .sync1Hit => .byte Config.sync1
  | .sync2Hit => .byte Config.sync2
  | .sync1Miss b | .sync2Miss b | .type b | .len b | .payload b | .cklo b | .ckhi b => .byte b

/-- A well-formed operation is selected in its row by its input. -/
theorem selectedWhen_home {i : Instr} (h : wellFormed i = true) : selectedWhen (homeState i) (homeInput i) = i := by
  cases i with
  | sync1Miss b | sync2Miss b => simpa [selectedWhen, homeState, homeInput, wellFormed] using h
  | _ => rfl

/-- Pins made for an input stand for it. -/
@[simp] theorem input_pins (x : Input) : x.pins.input = x := by
  cases x <;> rfl

/-- The operand set into a match whose low byte is clear stands below its five upper bits. -/
theorem or_setWidth_eq_append (h : BitVec 5) (b : Byte) : (h ++ 0#8 : SelectorWord) ||| b.setWidth 13 = h ++ b := by
  have hb : b.setWidth 13 = (0#5 ++ b : SelectorWord) := BitVec.setWidth_eq_append (by omega)
  rw [hb, BitVec.or_append]
  simp

/-- The selector word of a byte, as the encoder makes it. -/
theorem selector_byte (p : ParserState) (b : Byte) :
    selector p (Input.byte b).pins = (0#1 ++ p.code ++ 1#1 ++ 0#8 : SelectorWord) ||| b.setWidth 13 :=
  (or_setWidth_eq_append (0#1 ++ p.code ++ 1#1) b).symm

/-- The encoder gives the selector word of the operation's row and input. -/
theorem encode_eq_selector (i : Instr) : encode i = selector (homeState i) (homeInput i).pins := by
  cases i with
  | reset | reserved | nop | sync1Hit | sync2Hit => rfl
  | sync1Miss b | sync2Miss b | type b | len b | payload b | cklo b | ckhi b =>
    rw [encode, homeState, homeInput, selector_byte]
    rfl

/-- Settles O8: the word encoded is one whose operation the map's column "selected when" names. -/
theorem decodeOfEncodeIsSame : Obligations.DecodeOfEncodeIsSame := by
  intro i h
  rw [encode_eq_selector, decode_selector, input_pins, selectedWhen_home h]

/-- A byte selects, outside code 7, an operation of the row it came in, and that has no don't-care bits. -/
theorem home_selectedWhen {p : ParserState} (hp : p ≠ .reservedCode) (b : Byte) :
    homeState (selectedWhen p (.byte b)) = p ∧ homeInput (selectedWhen p (.byte b)) = .byte b ∧
      careMask (selectedWhen p (.byte b)) = BitVec.allOnes 13 := by
  cases p with
  | awaitingSync1 =>
    by_cases hb : b = 0xBB
    · subst hb
      decide
    · rw [selectedWhen_sync1_miss hb]
      exact ⟨rfl, rfl, rfl⟩
  | awaitingSync2 =>
    by_cases hb : b = 0x66
    · subst hb
      decide
    · rw [selectedWhen_sync2_miss hb]
      exact ⟨rfl, rfl, rfl⟩
  | reservedCode => exact absurd rfl hp
  | _ => exact ⟨rfl, rfl, rfl⟩

/-- A mask that leaves the byte out sees the five upper bits only. -/
theorem selector_and_of_low_clear (p : ParserState) (rst valid : Bool) (b : Byte) (m : BitVec 5) :
    selector p ⟨rst, valid, b⟩ &&& (m ++ 0#8 : SelectorWord) =
      ((BitVec.ofBool rst ++ p.code ++ BitVec.ofBool valid) &&& m) ++ 0#8 := by
  change ((BitVec.ofBool rst ++ p.code ++ BitVec.ofBool valid) ++ b) &&& (m ++ 0#8 : SelectorWord) = _
  rw [BitVec.and_append, BitVec.and_zero]

/-- Of RESET's word only `rst` counts. -/
theorem encode_reset_eq (p : ParserState) (valid : Bool) (b : Byte) :
    encode .reset = selector p ⟨true, valid, b⟩ &&& careMask .reset := by
  change 0x1000 = selector p _ &&& (0x10#5 ++ 0#8 : SelectorWord)
  rw [selector_and_of_low_clear]
  cases p <;> cases valid <;> rfl

/-- Of RESERVED's word `rst` and the state count. -/
theorem encode_reserved_eq (valid : Bool) (b : Byte) :
    encode .reserved = selector .reservedCode ⟨false, valid, b⟩ &&& careMask .reserved := by
  change 0x0E00 = selector _ _ &&& (0x1E#5 ++ 0#8 : SelectorWord)
  rw [selector_and_of_low_clear]
  cases valid <;> rfl

/-- Of NOP's word `rst` and `in_valid` count. -/
theorem encode_nop_eq (p : ParserState) (b : Byte) :
    encode .nop = selector p ⟨false, false, b⟩ &&& careMask .nop := by
  change 0x0000 = selector p _ &&& (0x11#5 ++ 0#8 : SelectorWord)
  rw [selector_and_of_low_clear]
  cases p <;> rfl

/-- Of the word of an operation that takes a byte every bit counts. -/
theorem encode_byte_eq {p : ParserState} (hp : p ≠ .reservedCode) (b : Byte) :
    encode (selectedWhen p (.byte b)) = selector p ⟨false, true, b⟩ &&& careMask (selectedWhen p (.byte b)) := by
  obtain ⟨hstate, hinput, hmask⟩ := home_selectedWhen hp b
  rw [hmask, BitVec.and_allOnes, encode_eq_selector, hstate, hinput]
  rfl

/-- The operation selected is encoded as the selector word, but for its don't-care bits. -/
theorem encode_selectedWhen (p : ParserState) (x : Pins) :
    encode (selectedWhen p x.input) = selector p x &&& careMask (selectedWhen p x.input) := by
  obtain ⟨rst, valid, b⟩ := x
  by_cases hp : p = .reservedCode
  · subst hp
    cases rst with
    | true => exact encode_reset_eq .reservedCode valid b
    | false => cases valid <;> exact encode_reserved_eq _ b
  · cases rst with
    | true => exact encode_reset_eq p valid b
    | false =>
      cases valid with
      | true => exact encode_byte_eq hp b
      | false =>
        have hsel : selectedWhen p (Pins.input ⟨false, false, b⟩) = .nop := selectedWhen_noByte hp
        rw [hsel]
        exact encode_nop_eq p b

/-- Settles O9: the word is the selector word of its parser state and its sample. -/
theorem encodeOfDecodeKeepsCareBits : Obligations.EncodeOfDecodeKeepsCareBits := by
  intro w i h
  rw [← selector_of_word w, decode_selector] at h
  cases h
  rw [encode_selectedWhen, selector_of_word]

/-- Settles O10: the rows of the map, evaluated on each word. -/
theorem knownWordsDecode : Obligations.KnownWordsDecode := by
  unfold Obligations.KnownWordsDecode
  decide

/-- Settles O11: the width is tested before the map is read. -/
theorem wideNumbersAreRefused : Obligations.WideNumbersAreRefused := by
  intro n hn
  have hwide : decodeNat n = .error .tooWide := if_neg hn.not_gt
  exact ⟨hwide, fun _ => by rw [decodeTableWord, hwide]⟩

/-! ### The word of the coming step -/

/-- A step performs what its selector word decodes to (R54, R80). -/
theorem step_of_decode {s : State} {i : Instr} (h : decode (selector s.st s.pins) = .ok i) :
    step s = exec i s.consume := by
  rw [step, State.fetch, h]

/-- Settles O13: the list of samples, with one at its head or exhausted. -/
theorem stepPerformsSelectedOperation : Obligations.StepPerformsSelectedOperation := by
  refine ⟨fun _ _ => step_of_decode, fun s x rest h => ?_, fun s h => ?_⟩
  · exact ⟨by rw [State.pins, h]; rfl, by rw [State.consume, h]; rfl⟩
  · refine ⟨by rw [State.pins, h]; rfl, ?_⟩
    rw [State.consume, h, List.tail_nil, ← h]

/-- A number of 13 bits is decoded as a selector word. -/
theorem decode_of_decodeTableWord {nbits w : Nat} {i : Instr} (hw : w < 2 ^ 13)
    (h : decodeTableWord nbits w = some i) : decode (BitVec.ofNat 13 w) = .ok i := by
  rw [decodeTableWord, decodeNat, if_pos hw] at h
  split at h
  · rwa [← Option.some.inj h]
  · cases h

/-- Settles O14: presenting sets exactly the parts the selector word is made of. -/
theorem presentedWordIsPerformed : Obligations.PresentedWordIsPerformed := by
  intro s nbits w hw
  have hword : selector (s.withFetchWord nbits w).st (s.withFetchWord nbits w).pins = BitVec.ofNat 13 w :=
    selector_of_word _
  refine ⟨hword, fun i hi => ?_⟩
  rw [step_of_decode (hword ▸ decode_of_decodeTableWord hw hi)]
  rfl

end Sys2Proof.Machine

/-! PROOFS. What a step can reach: the buffer at the cursor only (`20_memory.md` R31, R36, R38), so old bytes survive
as `70_reset_and_hazards.md` R133 says; and what it can depend on (`10_state.md` R19, `20_memory.md` R42). -/

namespace Sys2Proof.Machine

/-- Settles O37: the buffer kept, or one byte stored at the cursor. -/
theorem stepStoresOnlyAtCursor : Obligations.StepStoresOnlyAtCursor := by
  intro s t ht
  have hp := performed_of_step ht
  rcases hp.keeps_or_stores with ⟨hb, hc⟩ | ⟨-, hc, b, -, hb⟩
  · have hkept : s.BufKept t := fun a => by rw [hb, State.consume_buf]
    exact ⟨fun a _ => hkept a, fun _ => hkept, hc.imp id .inr, hp.cap_eq, hp.inputs_eq⟩
  · exact ⟨fun a ha => by rw [hb]; exact Memory.read_write_other _ _ ha, fun h => absurd hc h, .inr (.inl hc),
      hp.cap_eq, hp.inputs_eq⟩

/-! ### How long a byte survives -/

/-- A sample that offers a byte is counted with the samples behind it. -/
theorem bytesWithin_succ_of_byte {s t : State} {b : Byte} (hx : s.pins.input = .byte b)
    (hin : t.inputs = s.inputs.tail) (k : Nat) : s.bytesWithin (k + 1) = t.bytesWithin k + 1 := by
  rw [State.pins] at hx
  cases hs : s.inputs with
  | nil =>
    rw [hs] at hx
    cases hx
  | cons p rest =>
    rw [hs, List.headD_cons] at hx
    have hcounted : (p.inValid && !p.rst) = true := by
      obtain ⟨rst, valid, c⟩ := p
      cases rst <;> cases valid <;> cases hx
      rfl
    simp [State.bytesWithin, hin, hs, List.take_succ_cons, hcounted]

/-- No sample counted is lost when the first is taken. -/
theorem bytesWithin_tail_le {s t : State} (hin : t.inputs = s.inputs.tail) (k : Nat) :
    t.bytesWithin k ≤ s.bytesWithin (k + 1) := by
  rw [State.bytesWithin, State.bytesWithin, hin, ← List.drop_one, List.take_drop, Nat.add_comm 1]
  exact ((List.drop_sublist 1 _).filter _).length_le

/-- R133: a position is out of reach for as many bytes as the cursor stands below it. -/
theorem read_of_bytesWithin {s t : State} {k i : Nat} (hrun : runSteps k s = .next t)
    (h : s.cursor + s.bytesWithin k ≤ i) : t.buf.read i = s.buf.read i := by
  induction k generalizing s with
  | zero =>
    cases hrun
    rfl
  | succ k ih =>
    obtain ⟨u, hu, hrest⟩ := runSteps_succ_next hrun
    have hp := performed_of_step hu
    rcases hp.keeps_or_stores with ⟨hb, hc⟩ | ⟨-, hc, b, hx, hb⟩
    · have hle := bytesWithin_tail_le hp.inputs_eq k
      have hcur : u.cursor ≤ s.cursor := by
        rcases hc with hc | hc <;> rw [hc]
        · exact le_rfl
        · exact Nat.zero_le _
      rw [ih hrest (by omega), hb, State.consume_buf]
    · have hcount := bytesWithin_succ_of_byte hx hp.inputs_eq k
      rw [State.consume_cursor] at hc
      rw [ih hrest (by omega), hb, State.consume_buf, State.consume_cursor, Memory.read_write_other _ _ (by omega)]

/-- Settles O50: the cursor starts at 0. -/
theorem completedFrameSurvives : Obligations.CompletedFrameSurvives :=
  fun s _ k _ hc hrun h => read_of_bytesWithin hrun (by omega)

/-- Under the invariants, what is stored at positions 0 and 1 are the sync bytes. -/
theorem State.Inv.syncHeld_of_performed {s t : State} {x : Input} (h : s.Inv) (hsync : s.syncHeld)
    (hp : Performed s x t) : t.syncHeld := by
  cases hp with
  | reset | nop | overflow | sync1Miss | sync2Miss | cklo | accept | reject => exact hsync
  | sync1Hit hs =>
    have hb : ((s.appendByte 0xBB).goto .awaitingSync2).buf = s.buf.write 0 0xBB := by simp [h.cursor_eq_zero hs]
    exact ⟨holds_of_write hb, holds_of_write_other hb Nat.one_ne_zero hsync.2⟩
  | sync2Hit hs =>
    obtain ⟨hc, h0⟩ := h.row_of hs
    have hb : ((s.appendByte 0x66).goto .awaitingType).buf = s.buf.write 1 0x66 := by simp [hc]
    exact ⟨holds_of_write_other hb Nat.zero_ne_one h0, holds_of_write hb⟩
  | type b hs | len b hs | payload b hs =>
    obtain ⟨hc, -⟩ := h.row_of hs
    exact syncHeld_of_write (by omega) hsync rfl

/-- Settles O51, by induction on the number of steps, with the invariants. -/
theorem syncPositionsKeepSyncBytes : Obligations.SyncPositionsKeepSyncBytes := by
  intro s t k h hsync hrun
  induction k generalizing s with
  | zero =>
    cases hrun
    exact hsync
  | succ k ih =>
    obtain ⟨u, hu, hrest⟩ := runSteps_succ_next hrun
    exact ih u (stepKeepsInvariants s u h hu) (h.consume.syncHeld_of_performed hsync (performed_of_step hu)) hrest

/-! ### What a step depends on -/

theorem stateAfterCount_ne_awaitingChecksumHigh (r : Byte) : stateAfterCount r ≠ .awaitingChecksumHigh := by
  rw [stateAfterCount_eq]
  split <;> simp

/-- Taking the sample keeps two states that differ in stale registers so related. -/
theorem State.SameButStale.consume {s t : State} (h : s.SameButStale t) : s.consume.SameButStale t.consume :=
  ⟨h.cap, h.st, h.cursor, h.buf, congrArg List.tail h.inputs, h.out, h.rem, h.cklo⟩

/-- R19 (b): the same operation leaves two states that differ in stale registers so related, with the same outputs. -/
theorem State.SameButStale.performed {s t s' : State} {x : Input} (h : s.SameButStale t) (hp : Performed s x s') :
    ∃ t', Performed t x t' ∧ s'.SameButStale t' := by
  obtain ⟨cap, st, cursor, rem, cklo, buf, inputs, out⟩ := s
  obtain ⟨cap', st', cursor', rem', cklo', buf', inputs', out'⟩ := t
  obtain ⟨hcap, hst, hcursor, hbuf, hinputs, hout, hrem, hcklo⟩ := h
  dsimp only at hcap hst hcursor hbuf hinputs hout hrem hcklo
  subst hcap hst hcursor hbuf hinputs hout
  cases hp with
  | reset => exact ⟨_, .reset, rfl, rfl, rfl, rfl, rfl, rfl, nofun, nofun⟩
  | nop hs => exact ⟨_, .nop hs, rfl, rfl, rfl, rfl, rfl, rfl, hrem, hcklo⟩
  | overflow b hc hs => exact ⟨_, .overflow b hc hs, rfl, rfl, rfl, rfl, rfl, rfl, nofun, nofun⟩
  | sync1Hit hs hc => exact ⟨_, .sync1Hit hs hc, rfl, rfl, rfl, rfl, rfl, rfl, nofun, nofun⟩
  | sync1Miss b hs hb => exact ⟨_, .sync1Miss b hs hb, rfl, rfl, rfl, rfl, rfl, rfl, nofun, nofun⟩
  | sync2Hit hs hc => exact ⟨_, .sync2Hit hs hc, rfl, rfl, rfl, rfl, rfl, rfl, nofun, nofun⟩
  | sync2Miss b hs hb => exact ⟨_, .sync2Miss b hs hb, rfl, rfl, rfl, rfl, rfl, rfl, nofun, nofun⟩
  | type b hs hc => exact ⟨_, .type b hs hc, rfl, rfl, rfl, rfl, rfl, rfl, nofun, nofun⟩
  | len b hs hc =>
    exact ⟨_, .len b hs hc, rfl, rfl, rfl, rfl, rfl, rfl, fun _ => rfl,
      fun h => absurd h (stateAfterCount_ne_awaitingChecksumHigh b)⟩
  | payload b hs hc =>
    obtain rfl : rem = rem' := hrem hs
    exact ⟨_, .payload b hs hc, rfl, rfl, rfl, rfl, rfl, rfl, fun _ => rfl,
      fun h => absurd h (stateAfterCount_ne_awaitingChecksumHigh _)⟩
  | cklo b hs => exact ⟨_, .cklo b hs, rfl, rfl, rfl, rfl, rfl, rfl, nofun, fun _ => rfl⟩
  | accept b hs hc hm =>
    obtain rfl : cklo = cklo' := hcklo hs
    exact ⟨_, .accept b hs hc hm, rfl, rfl, rfl, rfl, rfl, rfl, nofun, nofun⟩
  | reject b hs hc hm =>
    obtain rfl : cklo = cklo' := hcklo hs
    exact ⟨_, .reject b hs hc hm, rfl, rfl, rfl, rfl, rfl, rfl, nofun, nofun⟩

/-- Two states that differ in stale registers read the same pins. -/
theorem State.SameButStale.pins_eq {s t : State} (h : s.SameButStale t) : s.pins = t.pins := by
  rw [State.pins, State.pins, h.inputs]

/-- Settles O44, by induction on the number of steps. -/
theorem staleRegistersInfluenceNothing : Obligations.StaleRegistersInfluenceNothing := by
  intro k s s' t h hrun
  induction k generalizing s t with
  | zero =>
    cases hrun
    exact ⟨t, rfl, h⟩
  | succ k ih =>
    obtain ⟨u, hu, hrest⟩ := runSteps_succ_next hrun
    obtain ⟨v, hv, huv⟩ := h.consume.performed (performed_of_step hu)
    obtain ⟨t', ht', hst'⟩ := ih u v huv hrest
    exact ⟨t', (runSteps_succ (step_of_performed (h.pins_eq ▸ hv))).trans ht', hst'⟩

/-- What two states share that were one but for the buffer: all fields but `buf`, and `out` unless CKHI made it. -/
structure State.SameButBuffer (s t t' : State) : Prop where
  st : t'.st = t.st
  cursor : t'.cursor = t.cursor
  rem : t'.rem = t.rem
  cklo : t'.cklo = t.cklo
  inputs : t'.inputs = t.inputs
  out : s.st ≠ .awaitingChecksumHigh → t'.out = t.out

/-- R42: with another buffer the same operation does the same to all but the buffer; CKHI may come to the other of its
two outcomes, which differ in the outputs only. -/
theorem Performed.with_buffer {s t : State} {x : Input} (h : Performed s x t) (m : Memory) :
    ∃ t', Performed { s with buf := m } x t' ∧ s.SameButBuffer t t' := by
  cases h with
  | reset => exact ⟨_, .reset, rfl, rfl, rfl, rfl, rfl, fun _ => rfl⟩
  | nop hs => exact ⟨_, .nop hs, rfl, rfl, rfl, rfl, rfl, fun _ => rfl⟩
  | overflow b hc hs => exact ⟨_, .overflow b hc hs, rfl, rfl, rfl, rfl, rfl, fun _ => rfl⟩
  | sync1Hit hs hc => exact ⟨_, .sync1Hit hs hc, rfl, rfl, rfl, rfl, rfl, fun _ => rfl⟩
  | sync1Miss b hs hb => exact ⟨_, .sync1Miss b hs hb, rfl, rfl, rfl, rfl, rfl, fun _ => rfl⟩
  | sync2Hit hs hc => exact ⟨_, .sync2Hit hs hc, rfl, rfl, rfl, rfl, rfl, fun _ => rfl⟩
  | sync2Miss b hs hb => exact ⟨_, .sync2Miss b hs hb, rfl, rfl, rfl, rfl, rfl, fun _ => rfl⟩
  | type b hs hc => exact ⟨_, .type b hs hc, rfl, rfl, rfl, rfl, rfl, fun _ => rfl⟩
  | len b hs hc => exact ⟨_, .len b hs hc, rfl, rfl, rfl, rfl, rfl, fun _ => rfl⟩
  | payload b hs hc => exact ⟨_, .payload b hs hc, rfl, rfl, rfl, rfl, rfl, fun _ => rfl⟩
  | cklo b hs => exact ⟨_, .cklo b hs, rfl, rfl, rfl, rfl, rfl, fun _ => rfl⟩
  | accept b hs hc | reject b hs hc =>
    by_cases hm : ({ s with buf := m } : State).receivedChecksum b = ({ s with buf := m } : State).computedChecksum
    · exact ⟨_, .accept b hs hc hm, rfl, rfl, rfl, rfl, rfl, fun hne => absurd hs hne⟩
    · exact ⟨_, .reject b hs hc hm, rfl, rfl, rfl, rfl, rfl, fun hne => absurd hs hne⟩

/-- Settles O45: a case of the inversion for the one buffer gives one for the other. -/
theorem bufferSteersOnlyChecksum : Obligations.BufferSteersOnlyChecksum := by
  intro s s' m hs
  obtain ⟨t', hp, h⟩ := (performed_of_step hs).with_buffer m
  exact ⟨t', step_of_performed hp, h.st, h.cursor, h.rem, h.cklo, h.inputs, h.out⟩

end Sys2Proof.Machine

/-! PROOFS. The outputs of a step, each from its cause (`41_frame_assembler.md` R90, R95, `60_exceptions.md` R110 to
R116), and what the host sees of them (`10_state.md` R18, `20_memory.md` R33). -/

namespace Sys2Proof.Machine

/-- R90, R94 (a): `Complete` is CKHI's output on a match, and reports the cursor. -/
theorem Performed.complete_iff {s t : State} {x : Input} (hp : Performed s x t) (n : Nat) :
    t.out.result = .complete n ↔
      s.st = .awaitingChecksumHigh ∧ n = s.cursor ∧
        ∃ b, x = .byte b ∧ s.receivedChecksum b = s.computedChecksum := by
  cases hp with
  | accept b hs hc hm => simp [hs, hm, eq_comm]
  | reject b hs hc hm => simp [hs, hm]
  | reset | nop => simp
  | overflow b hc hs => rcases hs with ⟨hs, -⟩ | ⟨hs, -⟩ | hs | hs | hs <;> simp [hs]
  | sync1Hit hs | sync1Miss b hs | sync2Hit hs | sync2Miss b hs | type b hs | len b hs | payload b hs | cklo b hs =>
    simp [hs]

/-- Settles O39: the received and the computed checksum do not look at the samples. -/
theorem completeOnlyFromMatch : Obligations.CompleteOnlyFromMatch :=
  fun _ _ n ht => (performed_of_step ht).complete_iff n

/-- R112: `CrcMismatch` is CKHI's output on a mismatch. -/
theorem Performed.crcMismatch_iff {s t : State} {x : Input} (hp : Performed s x t) :
    t.out.diag = .crcMismatch ↔
      s.st = .awaitingChecksumHigh ∧ ∃ b, x = .byte b ∧ s.receivedChecksum b ≠ s.computedChecksum := by
  cases hp with
  | accept b hs hc hm => simp [hs, hm]
  | reject b hs hc hm => simp [hs, hm, Condition.diag]
  | reset | nop => simp
  | overflow b hc hs => rcases hs with ⟨hs, -⟩ | ⟨hs, -⟩ | hs | hs | hs <;> simp [hs, Condition.diag]
  | sync1Hit hs | sync1Miss b hs | sync2Hit hs | sync2Miss b hs | type b hs | len b hs | payload b hs | cklo b hs =>
    simp [hs, Condition.diag]

/-- R113: `Overflow` is the output of an appending operation on a full buffer. -/
theorem Performed.overflow_iff {s t : State} {x : Input} (hp : Performed s x t) :
    t.out.diag = .overflow ↔
      s.cursor = s.cap ∧ ∃ b, x = .byte b ∧
        (s.st = .awaitingSync1 ∧ b = 0xBB ∨ s.st = .awaitingSync2 ∧ b = 0x66 ∨ s.st = .awaitingType ∨
          s.st = .awaitingLength ∨ s.st = .awaitingPayload) := by
  cases hp with
  | overflow b hc hs => exact ⟨fun _ => ⟨hc, b, rfl, hs⟩, fun _ => rfl⟩
  | reset | nop => simp
  | sync1Hit hs hc | sync2Hit hs hc | type b hs hc | len b hs hc | payload b hs hc => simp [hc.ne]
  | sync1Miss b hs hb | sync2Miss b hs hb =>
    simpa [hs, Condition.diag] using fun (_ : s.cursor = s.cap) => hb
  | cklo b hs | accept b hs | reject b hs => simp [hs, Condition.diag]

/-- R116: with a diagnostic comes the recovery all conditions share. -/
theorem Performed.recovered_of_diag {s t : State} {x : Input} (hp : Performed s x t) (h : t.out.diag ≠ .none) :
    s.Recovered t t.out.diag := by
  cases hp with
  | overflow => exact recovered_raise s .bufferOverflow
  | reject => exact recovered_raise s .checksumMismatch
  | reset | nop | sync1Hit | sync1Miss | sync2Hit | sync2Miss | type | len | payload | cklo | accept =>
    exact absurd rfl h

/-- Settles O41: the two causes and the shared recovery. -/
theorem diagnosticsTellTheirCause : Obligations.DiagnosticsTellTheirCause := fun _ _ ht =>
  ⟨(performed_of_step ht).crcMismatch_iff, (performed_of_step ht).overflow_iff,
    (performed_of_step ht).recovered_of_diag⟩

/-- Settles O40: the cursor of AwaitingChecksumHigh, which the invariants fix by the Length byte. -/
theorem frameLengthCountsHeaderAndPayload : Obligations.FrameLengthCountsHeaderAndPayload := by
  intro s t n h ht hn
  obtain ⟨hs, rfl, -⟩ := (completeOnlyFromMatch s t n ht).1 hn
  obtain ⟨hlen, -⟩ := h.row_of hs
  have hfits := h.cursorFits
  exact ⟨hlen, by omega, hfits, by omega⟩

/-- Settles O42: the header always fits, and CKLO and CKHI append nothing. -/
theorem overflowNeedsSmallBuffer : Obligations.OverflowNeedsSmallBuffer := by
  intro s t h ht hover
  obtain ⟨-, hcause, -⟩ := diagnosticsTellTheirCause s t ht
  obtain ⟨hfull, b, -, hs⟩ := hcause.1 hover
  have hpay : s.st = .awaitingPayload := by
    rcases h.past_header_of_full hfull with hst | hst | hst
    · exact hst
    all_goals simp [hst] at hs
  obtain ⟨-, hrem, hsum, -⟩ := h.row_of hpay
  have hpos : 0 < s.rem.toNat := by bv_omega
  exact ⟨hpay, by omega, by omega⟩

/-- Settles O43: the cursor stands behind the payload, and everything below it has been written. -/
theorem checksumReadsOnlyWritten : Obligations.ChecksumReadsOnlyWritten := by
  intro s h hs
  obtain ⟨hc, -⟩ := h.row_of hs
  refine ⟨fun i _ hi => Option.isSome_iff_exists.1 (h.written i hi), s.bufRange 4 (s.memRead 3).toNat, ?_,
    State.length_bufRange .., fun i hi => State.getElem_bufRange ..⟩
  have hcount : s.cursor - Config.dom0 = (s.memRead 3).toNat + 1 + 1 := by
    change s.cursor - 2 = _
    omega
  rw [State.checksumDomain, hcount]
  rfl

/-! ### Single operations -/

theorem input_of_rst {x : Pins} (h : x.rst = true) : x.input = .reset := if_pos h

/-- Settles O16: RESET is selected by `rst` alone. -/
theorem resetClearsStateAndCursorOnly : Obligations.ResetClearsStateAndCursorOnly :=
  ⟨fun _ h => fetch_of rfl (input_of_rst h), fun _ => ⟨_, rfl, rfl, rfl, rfl, rfl, fun _ => rfl, rfl, rfl, rfl⟩⟩

/-- R130, R131: with `rst` the step is RESET on the state with its sample taken. -/
theorem step_of_rst {s : State} (h : s.pins.rst = true) : step s = execReset s.consume := by
  rw [step_eq_exec, input_of_rst h]
  rfl

/-- Settles O17: either sample has `rst` set. -/
theorem resetBeatsOfferedByte : Obligations.ResetBeatsOfferedByte := by
  intro s valid b rest
  have hstep : ∀ x : Pins, x.rst = true →
      step { s with inputs := x :: rest } = execReset { s with inputs := rest } := fun _ hx => step_of_rst hx
  exact ⟨(hstep _ rfl).trans (hstep _ rfl).symm, _, hstep _ rfl, rfl, rfl, rfl, rfl, fun _ => rfl, rfl⟩

/-- No operation leads to code 7. -/
theorem Performed.st_ne_reserved {s t : State} {x : Input} (hp : Performed s x t) : t.st ≠ .reservedCode := by
  cases hp with
  | nop hs => exact hs
  | len | payload =>
    rw [State.goto_st, stateAfterCount_eq]
    split <;> simp
  | _ => nofun

/-- R57: in code 7 every input but reset selects RESERVED. -/
theorem selectedWhen_reservedCode {x : Input} (h : x ≠ .reset) : selectedWhen .reservedCode x = .reserved := by
  cases x with
  | reset => exact absurd rfl h
  | noByte | byte => rfl

/-- Settles O18: RESERVED is refused, and no case of the inversion leaves code 7. -/
theorem reservedCodeIsRefused : Obligations.ReservedCodeIsRefused := by
  refine ⟨fun _ => rfl, fun s hs hx => ?_, fun s hs hx => ?_, fun _ _ ht => (performed_of_step ht).st_ne_reserved⟩
  · rw [step_eq_exec, hs, selectedWhen_reservedCode hx]
    rfl
  · rw [step_eq_exec, hs, hx]
    exact ⟨_, rfl, rfl, rfl⟩

/-- Settles O26: the successor is the one of the counter left, whatever its value. -/
theorem payloadRunsAtZeroCounter : Obligations.PayloadRunsAtZeroCounter := by
  intro s b h _
  rw [exec_payload, appendThen_room h]
  refine ⟨_, rfl, ?_⟩
  rw [← stateAfterCount_eq]
  exact appended_setRem_goto s b (decrement s.rem) _

/-- Settles O30: five appends and the test of CKHI. -/
theorem beyondCapacityFaults : Obligations.BeyondCapacityFaults := by
  intro s b h i hi
  simp only [List.mem_cons, List.not_mem_nil, or_false] at hi
  rcases hi with rfl | rfl | rfl | rfl | rfl | rfl
  · exact (exec_sync1Hit s).trans (appendThen_beyond h _ _)
  · exact (exec_sync2Hit s).trans (appendThen_beyond h _ _)
  · exact (exec_type b s).trans (appendThen_beyond h _ _)
  · exact (exec_len b s).trans (appendThen_beyond h _ _)
  · exact (exec_payload b s).trans (appendThen_beyond h _ _)
  · exact if_neg h.not_ge

/-! ### The host's side -/

/-- Settles O52: one case for each result and each diagnostic. -/
theorem pinsCarryOutputs : Obligations.PinsCarryOutputs := by
  refine ⟨fun s n h => ?_, fun s h => ?_, fun s => ?_⟩
  · rw [State.frameComplete, State.frameLength, h]
    exact ⟨rfl, rfl⟩
  · rw [State.frameComplete, State.frameLength, h]
    exact ⟨rfl, rfl⟩
  · rw [State.diagPins]
    cases s.out.diag <;> decide

/-- Settles O53: below `CAP` the read port is `MemRead`. -/
theorem readPortShowsWrittenBytes : Obligations.ReadPortShowsWrittenBytes := fun _ _ _ ha h =>
  (if_pos ha).trans (State.memRead_of_read h)

/-- Settles O56: the width is the ceiling of the logarithm of the number of cursor values. -/
theorem cursorWidthIsLeast : Obligations.CursorWidthIsLeast := fun cap =>
  ⟨fun _ hn => (Nat.lt_succ_of_le hn).trans_le (Nat.le_pow_clog (by omega) _),
    fun _ hw => (Nat.clog_le_iff_le_pow (by omega)).2 hw⟩

end Sys2Proof.Machine
